-- ==== Sys2Proof/Word.lean ====
section
/-!
DEFINITION. The bit-vector types the spec fixes (00_scope.md R5): a byte is 8 bits, a word 16 bits, all unsigned.
-/

namespace Sys2Proof

/-- A byte (R5). -/
abbrev Byte := BitVec 8

/-- A word (R5): a device register, a configuration word, a sample. -/
abbrev Word := BitVec 16

/-- The code of a three-bit field of the configuration word: mux, gain or data rate (R20). -/
abbrev Code := BitVec 3

/-- A command word (R55): `op[23:20] a[19:16] v[15:0]`. -/
abbrev Command := BitVec 24

end Sys2Proof
end

