-- ==== Sys2Proof/Config.lean ====
section
/-!
DEFINITION. The implementation parameters 00_scope.md R4 leaves open, as one structure. A block carries them in
`State.params`; no step writes them. The constants R4 fixes and the default values stand in Machine/Defaults.lean.
-/

namespace Sys2Proof

/-- The OPEN parameters of R4. Statements hold for every value of them that is well formed; `Params.default` only
fills in the defaults of R4. -/
structure Params where
  /-- `MUX_SE[0..3]` (R81). -/
  muxSe : Vector Code 4
  /-- `MUX_DIFF[0..3]` (R82): kept, selected by no operation. -/
  muxDiff : Vector Code 4
  /-- `GAIN_CODE[0..5]` (R83). -/
  gainCode : Vector Code 6
  /-- `RATE_CODE[0..7]` (R84). -/
  rateCode : Vector Code 8
  /-- `MODE_SINGLE` (R88). -/
  modeSingle : BitVec 1
  /-- `CMODE_TRAD` (R88). -/
  cmodeTrad : BitVec 1
  /-- `CPOL_ACTIVE_LOW` (R88). -/
  cpolActiveLow : BitVec 1
  /-- `CLAT_NONLATCHING` (R88). -/
  clatNonlatching : BitVec 1
  /-- `CQUE_DISABLE` (R88). -/
  cqueDisable : BitVec 2
  /-- The gain variant `GAIN_INIT` is (R4, R90). -/
  gainInitIx : Fin 6
  /-- The data-rate variant `RATE_INIT` is (R4, R90). -/
  rateInitIx : Fin 8
  /-- `MAX_POLLS` (R4, R91): `none`, the source's behaviour, or a positive cap. -/
  maxPolls : Option Nat
  deriving DecidableEq, Repr

/-- What R4 requires of the parameters: pairwise distinct mux, gain and rate codes, and a cap that is not 0. -/
def Params.wf (p : Params) : Bool :=
  decide p.muxSe.toList.Nodup && decide p.gainCode.toList.Nodup && decide p.rateCode.toList.Nodup
    && decide (p.maxPolls ≠ some 0)

end Sys2Proof
end

