-- ==== Sys2Proof/Machine/Defaults.lean ====
section
/-!
DEFINITION. The values of 00_scope.md R4: the constants the source fixes and the defaults of the open parameters.
-/

namespace Sys2Proof.Config

/-- `DEV_ADDR` (R4, R11): fixed 0x48. -/
def devAddr : BitVec 7 := 0x48

/-- `WHOAMI_REG` (R4, R53): fixed 0x75. -/
def whoamiReg : Byte := 0x75

/-- `BUS_IDLE_TIMEOUT_US` (R4, R90): fixed 200 microseconds. -/
def busIdleTimeoutUs : Nat := 200

/-- `PIN_LOW_TIMEOUT_US` (R4, R90): fixed 1000 microseconds. -/
def pinLowTimeoutUs : Nat := 1000

/-- `CLK_HZ` when the reset gives none (R4, R12): 400000 hertz. -/
def clkHzDefault : Nat := 400000

end Sys2Proof.Config

namespace Sys2Proof

/-- The defaults of R4. The field codes are the spec's own defaults, from general knowledge (log entry 4); R4 gives
`GAIN_INIT` and `RATE_INIT` none: DESIGN CHOICE (log entry 3), unsafe: a claim could lean on the two variants. -/
def Params.default : Params where
  muxSe := #v[0b100, 0b101, 0b110, 0b111]
  muxDiff := #v[0b000, 0b001, 0b010, 0b011]
  gainCode := #v[0b000, 0b001, 0b010, 0b011, 0b100, 0b101]
  rateCode := #v[0b000, 0b001, 0b010, 0b011, 0b100, 0b101, 0b110, 0b111]
  modeSingle := 1
  cmodeTrad := 0
  cpolActiveLow := 0
  clatNonlatching := 0
  cqueDisable := 0b11
  gainInitIx := 2
  rateInitIx := 4
  maxPolls := none

end Sys2Proof
end

