-- ==== Sys2Proof/Syntax.lean ====
section
/-!
DEFINITION. The instructions: one constructor per row of spec/opcode_table.json. Ten are the operations of the command
port (30_encoding.md R55), three are the wire frames one transaction sends (R51 to R53), one is the configuration word,
the payload of the write frame to pointer 0x01 (R54).
-/

namespace Sys2Proof

/-- A single-ended channel, by index (R58, R81). -/
inductive Channel where
  | ch0 | ch1 | ch2 | ch3
  deriving DecidableEq, Repr

/-- The register enumeration of the RPU (R34): four members, not a raw pointer byte. -/
inductive Reg where
  | conversion | config | loThresh | hiThresh
  deriving DecidableEq, Repr

/-- The instructions. Gain and rate operands are field codes (R55), not variant indices. -/
inductive Instr where
  /-- INITIALIZE (R90). -/
  | initialise
  /-- READ_SINGLE (R91). -/
  | readSingle (ch : Channel)
  /-- SET_GAIN (R92); a code that is no gain code is refused when it is executed (R62). -/
  | setGain (g : Code)
  /-- GET_GAIN (R93). -/
  | getGain
  /-- SET_DATA_RATE (R94). -/
  | setDataRate (r : Code)
  /-- GET_DATA_RATE (R95). -/
  | getDataRate
  /-- WHO_AM_I (R96). -/
  | whoAmI
  /-- CFG_ASSEMBLE at the command port (R97, R80). -/
  | cfgAssemble (ch : Channel)
  /-- WRITE_REGISTER at the command port (R97, R70). -/
  | writeRegister (reg : Reg) (v : Word)
  /-- READ_REGISTER at the command port (R97, R71). -/
  | readRegister (reg : Reg)
  /-- FW, the write frame (R51). -/
  | fw (reg : Reg) (v : Word)
  /-- FR, the read frame (R52). -/
  | fr (reg : Reg)
  /-- FB, the byte-read frame (R53). -/
  | fb
  /-- CW, the configuration word with these field codes (R54, R80). -/
  | cw (mux gain rate : Code)
  deriving DecidableEq, Repr

/-- One operation per line, as 30_encoding.md R66 writes programs: gains and rates are named by variant. -/
inductive Line where
  | initialise
  | readSingle (ch : Channel)
  | setGain (g : Fin 6)
  | getGain
  | setDataRate (r : Fin 8)
  | getDataRate
  | whoAmI
  | cfgAssemble (ch : Channel)
  | writeRegister (reg : Reg) (v : Word)
  | readRegister (reg : Reg)
  deriving DecidableEq, Repr

/-- Whether the instruction is an operation of the command port (R8, R55); the others are frames and payloads. -/
def Instr.isCommand : Instr → Bool
  | .initialise => true
  | .readSingle _ => true
  | .setGain _ => true
  | .getGain => true
  | .setDataRate _ => true
  | .getDataRate => true
  | .whoAmI => true
  | .cfgAssemble _ => true
  | .writeRegister _ _ => true
  | .readRegister _ => true
  | .fw _ _ => false
  | .fr _ => false
  | .fb => false
  | .cw _ _ _ => false

end Sys2Proof
end

