-- ==== Sys2Proof/Machine/Operands.lean ====
section
/-!
DEFINITION. Operand assembly and decoding (30_encoding.md section 2), register-absolute addressing (R34, R74), and the
parameter a code operand selects. The block's whole arithmetic on operands is here and in Machine/Cfs.lean (R85).
-/

namespace Sys2Proof

/-- `hi8(v)`: bits 15:8 (R6, R56). -/
def hi8 (v : Word) : Byte := v.extractLsb' 8 8

/-- `lo8(v)`: bits 7:0 (R6, R56). -/
def lo8 (v : Word) : Byte := v.extractLsb' 0 8

/-- `be16(b0, b1)`: the word whose high byte is the first byte received (R35, R57). -/
def be16 (b0 b1 : Byte) : Word := (b0.setWidth 16 <<< 8) ||| b1.setWidth 16

/-- A byte at the response port (R57): zero-extended to 16 bits. -/
def zextByte (b : Byte) : Word := b.setWidth 16

/-- A three-bit code at the response port (R93, R95): zero-extended to 16 bits. -/
def zextCode (c : Code) : Word := c.setWidth 16

/-- The two-bit index of a channel: the `a[1:0]` that names it (R55). -/
def Channel.index : Channel → BitVec 2
  | .ch0 => 0
  | .ch1 => 1
  | .ch2 => 2
  | .ch3 => 3

/-- The channel a two-bit index names (R58). -/
def Channel.ofIndex (c : BitVec 2) : Channel :=
  match c.toNat with
  | 0 => .ch0
  | 1 => .ch1
  | 2 => .ch2
  | _ => .ch3

/-- The two-bit selector of a register in a command word or a pointer byte (R51, R55). -/
def Reg.index : Reg → BitVec 2
  | .conversion => 0
  | .config => 1
  | .loThresh => 2
  | .hiThresh => 3

/-- The register a two-bit selector names (R58). -/
def Reg.ofIndex (r : BitVec 2) : Reg :=
  match r.toNat with
  | 0 => .conversion
  | 1 => .config
  | 2 => .loThresh
  | _ => .hiThresh

/-- `ptr(reg)` (R34): the pointer byte, upper six bits zero. -/
def Reg.ptr (r : Reg) : Byte := r.index.setWidth 8

/-- The register a pointer byte names, where it names one of the four (R33, R34). -/
def Reg.ofPtr (p : Byte) : Option Reg :=
  if p.extractLsb' 2 6 = 0 then some (Reg.ofIndex (p.extractLsb' 0 2)) else none

/-- `MUX_SE[ch]` (R81). -/
def Params.mux (p : Params) : Channel → Code
  | .ch0 => p.muxSe[0]
  | .ch1 => p.muxSe[1]
  | .ch2 => p.muxSe[2]
  | .ch3 => p.muxSe[3]

/-- `GAIN_INIT` (R4): the code of the gain variant INITIALIZE gives. -/
def Params.gainInit (p : Params) : Code := p.gainCode[p.gainInitIx]

/-- `RATE_INIT` (R4): the code of the data-rate variant INITIALIZE gives. -/
def Params.rateInit (p : Params) : Code := p.rateCode[p.rateInitIx]

/-- A legal gain code: one of `GAIN_CODE[0..5]` (R13, R58, R62). -/
def gainLegal (p : Params) (g : Code) : Bool := p.gainCode.toList.contains g

/-- A single-ended mux pattern: one of `MUX_SE[0..3]` (R21, R63). -/
def muxLegal (p : Params) (m : Code) : Bool := p.muxSe.toList.contains m

end Sys2Proof
end

