-- ==== Sys2Proof/WellFormed.lean ====
section
/-!
DEFINITION. The checks an instruction must pass beside its shape: the codes the spec's enumerations admit.
-/

namespace Sys2Proof

/-- Well-formedness under the parameters `p`: SET_GAIN carries a legal gain code (R62), a configuration word a
single-ended mux pattern and a legal gain code (R21). Every rate code is legal (R14). -/
def WellFormed (p : Params) : Instr → Bool
  | .initialise => true
  | .readSingle _ => true
  | .setGain g => gainLegal p g
  | .getGain => true
  | .setDataRate _ => true
  | .getDataRate => true
  | .whoAmI => true
  | .cfgAssemble _ => true
  | .writeRegister _ _ => true
  | .readRegister _ => true
  | .fw _ _ => true
  | .fr _ => true
  | .fb => true
  | .cw mux gain _ => muxLegal p mux && gainLegal p gain

end Sys2Proof
end

