-- ==== Sys2Proof/Decode.lean ====
section
/-!
DEFINITION. The decoders of 30_encoding.md and, after them, the encoder. Three spaces that are never matched against
each other (R59): command words at the host port (R55), frames on the wire, told apart by the length of `out` and by
`m` (R65), and the configuration word, the payload of the write frame to pointer 0x01 (R54).
-/

namespace Sys2Proof

/-- What a decoder reads: a command word, a frame with the number of bytes to read back, or a payload. -/
inductive Encoded where
  | command (w : Command)
  | frame (out : List Byte) (m : Nat)
  | payload (w : Word)
  deriving DecidableEq, Repr

/-- Why a decoder refuses. -/
inductive DecodeError where
  /-- Command opcodes 0xA to 0xF (R60). -/
  | reservedOpcode
  /-- A command bit that R55 shows as 0 is set (R61). -/
  | reservedBits
  /-- A frame whose lengths are those of no format (R65). -/
  | unknownFrame
  /-- A pointer byte the spec defines no frame for (R33). -/
  | undefinedPointer
  /-- A word whose fixed fields are not those of a configuration word (R20, R63). -/
  | notConfigWord
  deriving DecidableEq, Repr

/-! ### Fields of a command word (R55) -/

/-- `op = cmd[23:20]`. -/
def cmdOp (w : Command) : BitVec 4 := w.extractLsb' 20 4

/-- `a = cmd[19:16]`. -/
def cmdA (w : Command) : BitVec 4 := w.extractLsb' 16 4

/-- `v = cmd[15:0]`. -/
def cmdV (w : Command) : Word := w.extractLsb' 0 16

/-- `a[1:0]`: a channel index or a register. -/
def cmdSel (w : Command) : BitVec 2 := w.extractLsb' 16 2

/-- `a[2:0]`: a gain or rate code. -/
def cmdCode (w : Command) : Code := w.extractLsb' 16 3

/-- R61: the bits the table of R55 shows as 0 are 0, or the command is refused. -/
def ifZero (zero : Bool) (i : Instr) : Except DecodeError Instr :=
  if zero then .ok i else .error .reservedBits

/-- `a = 0` and `v = 0`. -/
def zeroAV (w : Command) : Bool := cmdA w == 0 && cmdV w == 0

/-- `a[3:2] = 0`. -/
def zeroA32 (w : Command) : Bool := w.extractLsb' 18 2 == 0

/-- `a[3] = 0`. -/
def zeroA3 (w : Command) : Bool := w.extractLsb' 19 1 == 0

/-- The decoder of the command port (R55, R59 to R61). The gain code is checked by R62 afterwards, in the meaning of
SET_GAIN. -/
def decodeCommand (w : Command) : Except DecodeError Instr :=
  match (cmdOp w).toNat with
  | 0x0 => ifZero (zeroAV w) .initialise
  | 0x1 => ifZero (zeroA32 w && cmdV w == 0) (.readSingle (Channel.ofIndex (cmdSel w)))
  | 0x2 => ifZero (zeroA3 w && cmdV w == 0) (.setGain (cmdCode w))
  | 0x3 => ifZero (zeroAV w) .getGain
  | 0x4 => ifZero (zeroA3 w && cmdV w == 0) (.setDataRate (cmdCode w))
  | 0x5 => ifZero (zeroAV w) .getDataRate
  | 0x6 => ifZero (zeroAV w) .whoAmI
  | 0x7 => ifZero (zeroA32 w && cmdV w == 0) (.cfgAssemble (Channel.ofIndex (cmdSel w)))
  | 0x8 => ifZero (zeroA32 w) (.writeRegister (Reg.ofIndex (cmdSel w)) (cmdV w))
  | 0x9 => ifZero (zeroA32 w && cmdV w == 0) (.readRegister (Reg.ofIndex (cmdSel w)))
  | _ => .error .reservedOpcode

/-! ### Frames and payloads -/

/-- A pointer byte turned into a register operand, or refused (R33). -/
def withReg (p : Byte) (mk : Reg → Instr) : Except DecodeError Instr :=
  match Reg.ofPtr p with
  | some r => .ok (mk r)
  | none => .error .undefinedPointer

/-- The decoder of the wire (R59, R65): the kind of frame is the pair (length of `out`, `m`). -/
def decodeFrame (out : List Byte) (m : Nat) : Except DecodeError Instr :=
  match out, m with
  | [p, h, l], 2 => withReg p fun r => .fw r (be16 h l)
  | [p], 2 => withReg p .fr
  | [p], 1 => if p = Config.whoamiReg then .ok .fb else .error .undefinedPointer
  | _, _ => .error .unknownFrame

/-- The fields of a configuration word that no operand reaches are the fixed ones (R20, R88, R89). -/
def isConfigWord (p : Params) (w : Word) : Bool :=
  w.extractLsb' 15 1 == 1#1 && w.extractLsb' 8 1 == p.modeSingle && w.extractLsb' 4 1 == p.cmodeTrad
    && w.extractLsb' 3 1 == p.cpolActiveLow && w.extractLsb' 2 1 == p.clatNonlatching
    && w.extractLsb' 0 2 == p.cqueDisable

/-- The decoder of the payload of a write frame to pointer 0x01 (R54). -/
def decodePayload (p : Params) (w : Word) : Except DecodeError Instr :=
  if isConfigWord p w then .ok (.cw (w.extractLsb' 12 3) (w.extractLsb' 9 3) (w.extractLsb' 5 3))
  else .error .notConfigWord

/-- Decoding, in the space the encoding lies in. -/
def decode (p : Params) : Encoded → Except DecodeError Instr
  | .command w => decodeCommand w
  | .frame out m => decodeFrame out m
  | .payload w => decodePayload p w

/-! ### The encoder -/

/-- A command word from its three fields (R55). -/
def commandWord (op a : BitVec 4) (v : Word) : Command :=
  BitVec.cast (show 4 + 4 + 16 = 24 from rfl) (op ++ a ++ v)

/-- A configuration word as the concatenation of its nine fields from bit 15 down (R20, R80). -/
def configWord (p : Params) (mux gain rate : Code) : Word :=
  BitVec.cast (show 1 + 3 + 3 + 1 + 3 + 1 + 1 + 1 + 2 = 16 from rfl)
    (1#1 ++ mux ++ gain ++ p.modeSingle ++ rate ++ p.cmodeTrad ++ p.cpolActiveLow ++ p.clatNonlatching
      ++ p.cqueDisable)

/-- The encoding of an instruction, from R51 to R55. -/
def encode (p : Params) : Instr → Encoded
  | .initialise => .command (commandWord 0x0 0 0)
  | .readSingle ch => .command (commandWord 0x1 (ch.index.setWidth 4) 0)
  | .setGain g => .command (commandWord 0x2 (g.setWidth 4) 0)
  | .getGain => .command (commandWord 0x3 0 0)
  | .setDataRate r => .command (commandWord 0x4 (r.setWidth 4) 0)
  | .getDataRate => .command (commandWord 0x5 0 0)
  | .whoAmI => .command (commandWord 0x6 0 0)
  | .cfgAssemble ch => .command (commandWord 0x7 (ch.index.setWidth 4) 0)
  | .writeRegister reg v => .command (commandWord 0x8 (reg.index.setWidth 4) v)
  | .readRegister reg => .command (commandWord 0x9 (reg.index.setWidth 4) 0)
  | .fw reg v => .frame [reg.ptr, hi8 v, lo8 v] 2
  | .fr reg => .frame [reg.ptr] 2
  | .fb => .frame [Config.whoamiReg] 1
  | .cw mux gain rate => .payload (configWord p mux gain rate)

/-! ### Opcode-table words -/

/-- The bits of an encoding as spec/opcode_table.json numbers them: the first byte of a frame leftmost. -/
def Encoded.bits : Encoded → Nat
  | .command w => w.toNat
  | .frame [b0, b1, b2] _ => (b0 ++ b1 ++ b2).toNat
  | .frame [b] _ => b.toNat
  | .frame _ _ => 0
  | .payload w => w.toNat

/-- The encoding a table word of `nbits` bits stands for. The command port and the write frame both have 24 bits: a
word that is a command is taken as one, and only a word that is none is read as a frame (log entry 8). -/
def tableEncoding (nbits w : Nat) : Option Encoded :=
  match nbits with
  | 8 =>
    let b := BitVec.ofNat 8 w
    some (.frame [b] (if b = Config.whoamiReg then 1 else 2))
  | 16 => some (.payload (BitVec.ofNat 16 w))
  | 24 =>
    let c := BitVec.ofNat 24 w
    match decodeCommand c with
    | .ok _ => some (.command c)
    | .error _ =>
      if c.extractLsb' 18 6 = 0 then
        some (.frame [c.extractLsb' 16 8, c.extractLsb' 8 8, c.extractLsb' 0 8] 2)
      else some (.command c)
  | _ => none

/-- The instruction the decoder reads from a table word, under the default codes the table is written with. -/
def decodeTableWord (nbits w : Nat) : Option Instr :=
  match tableEncoding nbits w with
  | none => none
  | some e =>
    match decode Params.default e with
    | .ok i => some i
    | .error _ => none

/-! ### Operation syntax (R66) -/

/-- The operation a line stands for: `G<i>` is the code `GAIN_CODE[i]`, `DR<i>` the code `RATE_CODE[i]`. -/
def Line.toInstr (p : Params) : Line → Instr
  | .initialise => .initialise
  | .readSingle ch => .readSingle ch
  | .setGain g => .setGain p.gainCode[g]
  | .getGain => .getGain
  | .setDataRate r => .setDataRate p.rateCode[r]
  | .getDataRate => .getDataRate
  | .whoAmI => .whoAmI
  | .cfgAssemble ch => .cfgAssemble ch
  | .writeRegister reg v => .writeRegister reg v
  | .readRegister reg => .readRegister reg

/-- A line's command word (R66: "A line's encoding is its command word"). -/
def Line.word (p : Params) (l : Line) : Command :=
  match encode p (l.toInstr p) with
  | .command w => w
  | .frame _ _ => 0
  | .payload _ => 0

/-- The name R66 gives a register operand. -/
def Reg.text : Reg → String
  | .conversion => "CONVERSION"
  | .config => "CONFIG"
  | .loThresh => "LO_THRESH"
  | .hiThresh => "HI_THRESH"

/-- A word as the examples of R66 write it: four hexadecimal digits. -/
def wordText (v : Word) : String :=
  let digit (n : Nat) : Char := "0123456789ABCDEF".toList.getD (n % 16) '0'
  "0x" ++ String.ofList [digit (v.toNat / 4096), digit (v.toNat / 256), digit (v.toNat / 16), digit v.toNat]

/-- The line as R66 writes it. -/
def Line.text : Line → String
  | .initialise => "INITIALIZE"
  | .readSingle ch => "READ_SINGLE CH" ++ toString ch.index.toNat
  | .setGain g => "SET_GAIN G" ++ toString g.val
  | .getGain => "GET_GAIN"
  | .setDataRate r => "SET_DATA_RATE DR" ++ toString r.val
  | .getDataRate => "GET_DATA_RATE"
  | .whoAmI => "WHO_AM_I"
  | .cfgAssemble ch => "CFG_ASSEMBLE CH" ++ toString ch.index.toNat
  | .writeRegister reg v => "WRITE_REGISTER " ++ reg.text ++ ", " ++ wordText v
  | .readRegister reg => "READ_REGISTER " ++ reg.text

end Sys2Proof
end

