-- ==== Sys2Proof/Machine/State.lean ====
section
/-!
DEFINITION. The state of the machine as plain data: the block's registers (10_state.md R10, all of them), the open
parameters it was built with (R4), and the agents it talks to (R7): what the host presents, the transport that answers,
and the record of what crossed the block's two ports. No operation reads the record.
-/

namespace Sys2Proof.Machine

/-- `LIFE`, the one mode flag (R18). -/
inductive Life where
  | uninit | init | dead
  deriving DecidableEq, Repr

/-- `PHASE`, the block's analogue of a program counter (R17): which request comes next. -/
inductive Phase where
  | idle | initIdleTo | initPinLow | initClock | rsWrite | rsPoll | rsRead | waiRead | regWrite | regRead
  deriving DecidableEq, Repr

/-- `TXBUF`, three bytes in transmission order (R10, R15). -/
structure TxBuf where
  b0 : Byte
  b1 : Byte
  b2 : Byte
  deriving DecidableEq, Repr

/-- `RXBUF`, two bytes in order of reception (R10, R15). -/
structure RxBuf where
  b0 : Byte
  b1 : Byte
  deriving DecidableEq, Repr

/-- `TransportError`, the opaque type of D10. The block copies values of it and never inspects them; a number names
which one it is (log entry 6). -/
structure TransportError where
  id : Nat
  deriving DecidableEq, Repr

/-- A request to the transport (R31, R32). -/
inductive Request where
  /-- `T.SetBusIdleTimeout(us)`, in microseconds. -/
  | setBusIdleTimeout (us : Nat)
  /-- `T.SetPinLowTimeout(us)`, in microseconds. -/
  | setPinLowTimeout (us : Nat)
  /-- `T.SetClockSpeed(hz)`, in hertz. -/
  | setClockSpeed (hz : Nat)
  /-- `T.Xfer(addr7, out, m)`. -/
  | xfer (addr : BitVec 7) (out : List Byte) (m : Nat)
  deriving DecidableEq, Repr

/-- What the transport answers. Of `ok b0 b1` a request takes its first `m` bytes (two, one, or none for a setter), so
every answer has exactly the requested length (R31, D20). -/
inductive Answer where
  | ok (b0 b1 : Byte)
  | err (e : TransportError)
  deriving DecidableEq, Repr

/-- An answer as it stands in the record: the bytes delivered, or the error. -/
inductive Result where
  | ok (inp : List Byte)
  | err (e : TransportError)
  deriving DecidableEq, Repr

/-- The error kinds of R110. -/
inductive ErrorKind where
  | busIdleTimeout (e : TransportError)
  | pinLowTimeout (e : TransportError)
  | clockSpeed (e : TransportError)
  | transport (e : TransportError)
  | notInitialized
  | handleConsumed
  | illegalCommand
  | pollLimit
  deriving DecidableEq, Repr

/-- The response record of R55. `terr` is `none` where R55 gives it no meaning. -/
structure Response where
  ok : BitVec 1
  err : BitVec 4
  val : Word
  terr : Option TransportError
  deriving DecidableEq, Repr

/-- One thing that crossed a port of the block: a request with its answer, a response to the host, a reset. -/
inductive Event where
  | request (req : Request) (res : Result)
  | response (r : Response)
  | reset (clkHz : Nat)
  deriving DecidableEq, Repr

/-- What the host presents (R145): a command word, or a reset with the clock speed it may give. -/
inductive HostInput where
  | command (w : Command)
  | reset (clkHz : Option Nat)
  deriving DecidableEq, Repr

/-- How the transport meets the next request: an answer of its own choosing (a draw, R31), the fixture's answer, or,
instead of an answer, a reset of the block while the request is in flight (R133). -/
inductive Reply where
  | ok (b0 b1 : Byte)
  | err (e : TransportError)
  | pass
  | reset (clkHz : Option Nat)
  deriving DecidableEq, Repr

/-- The map from pointer byte to word an echoing transport keeps (R46): pointers strictly rising, no entry 0. -/
abbrev Memory := List (Nat × Word)

/-- The reference environments of R46, ASSUMED test fixtures; `absent` is no fixture. -/
inductive Fixture where
  | absent
  | echo (mem : Memory)
  | scripted (k : Nat) (c : Word) (ident : Byte) (cfg : Word) (busy : Nat)
  deriving DecidableEq, Repr

/-- The transport and the device behind it: the answers to come, the fixture that fills in where they pass, and the
three settings (R23), each the value the newest request for it set, `none` while that is not known: before any request
for it, and after one that failed or was abandoned (log entry 16). -/
structure Transport where
  script : List Reply
  fixture : Fixture
  busIdleUs : Option Nat
  pinLowUs : Option Nat
  clockHz : Option Nat
  deriving DecidableEq, Repr

/-- The state. The first eleven fields are the registers of R10; the others are the model's own. -/
structure State where
  /-- `LIFE` (R18). -/
  life : Life
  /-- `DEV_ADDR` (R11). -/
  devAddr : BitVec 7
  /-- `CLK_HZ` (R12), in hertz. -/
  clkHz : Nat
  /-- `GAIN` (R13). -/
  gain : Code
  /-- `RATE` (R14). -/
  rate : Code
  /-- `PHASE` (R17). -/
  phase : Phase
  /-- `CHAN` (R15). -/
  chan : BitVec 2
  /-- `CFGW` (R15). -/
  cfgw : Word
  /-- `TXBUF` (R15). -/
  txbuf : TxBuf
  /-- `RXBUF` (R15). -/
  rxbuf : RxBuf
  /-- `POLLS` (R19); untouched while `MAX_POLLS` is `none`. -/
  polls : Nat
  /-- The open parameters (R4). -/
  params : Params
  /-- What the host has yet to present, first to come first (R99, R145). -/
  host : List HostInput
  /-- The transport and the device (R7). -/
  transport : Transport
  /-- What crossed the block's ports, newest first. -/
  trace : List Event
  deriving DecidableEq, Repr

/-- Why a step stops. -/
inductive Fault where
  /-- Raised by `step` in phase `REG_WRITE` or `REG_READ` when `TXBUF[0]` is a pointer byte that names no register.
  No operation can emit such a byte (R33, R34, U6) and no run reaches such a state; stopping is safe. -/
  | undefinedPointer
  deriving DecidableEq, Repr

/-- Why an instruction has no meaning. -/
inductive Refusal where
  /-- Raised by `exec` for an instruction the model gives no meaning; no arm does. Safe. -/
  | notModelled (mnemonic : String)
  deriving DecidableEq, Repr

/-- What the block does at its next step: run an instruction at a state, go to a state without one (a request of
INITIALIZE, a wait, a refused command, a reset), or stop. -/
inductive Turn where
  | run (i : Instr) (s : State)
  | done (s : State)
  | stop (f : Fault)
  deriving DecidableEq, Repr

/-- What one blocking request comes to: no answer yet, an error, or the bytes received, each with the state. -/
inductive Txn where
  | blocked (s : State)
  | failed (e : TransportError) (s : State)
  | got (b0 b1 : Byte) (s : State)
  deriving DecidableEq, Repr

/-- The machine right after reset (R131), with the default clock speed, nothing presented and nothing answered. `GAIN`,
`RATE` and the working registers hold the values of log entries 1 and 2 (DESIGN CHOICE, unsafe). -/
def State.reset : State where
  life := .uninit
  devAddr := Config.devAddr
  clkHz := Config.clkHzDefault
  gain := 0
  rate := 0
  phase := .idle
  chan := 0
  cfgw := 0
  txbuf := ⟨0, 0, 0⟩
  rxbuf := ⟨0, 0⟩
  polls := 0
  params := Params.default
  host := []
  transport := ⟨[], .absent, none, none, none⟩
  trace := []

end Sys2Proof.Machine
end

