-- ==== Sys2Proof/Machine/Flags.lean ====
section
/-!
DEFINITION. The block has no condition codes (10_state.md R19). What steers its control flow is one bit of a word just
read and a count of polls; the mode flag is guarded here (42_driver_sequencer.md R98).
-/

namespace Sys2Proof.Machine

/-- The status bit (R19, R22): bit 15 of a configuration word read back; set means not busy. -/
def statusBit (w : Word) : Bool := w.extractLsb' 15 1 == 1#1

/-- The lifecycle guard (R98): the refusal an operation meets in a lifecycle state, if any. -/
def lifeGuard : Life → Instr → Option ErrorKind
  | .uninit, .initialise => none
  | .uninit, _ => some .notInitialized
  | .init, .initialise => some .handleConsumed
  | .init, _ => none
  | .dead, _ => some .handleConsumed

/-- The code of an error (R110). -/
def ErrorKind.code : ErrorKind → BitVec 4
  | .busIdleTimeout _ => 1
  | .pinLowTimeout _ => 2
  | .clockSpeed _ => 3
  | .transport _ => 4
  | .notInitialized => 5
  | .handleConsumed => 6
  | .illegalCommand => 7
  | .pollLimit => 8

/-- The payload of an error (R110): the transport's own error, unchanged. -/
def ErrorKind.payload : ErrorKind → Option TransportError
  | .busIdleTimeout e => some e
  | .pinLowTimeout e => some e
  | .clockSpeed e => some e
  | .transport e => some e
  | .notInitialized => none
  | .handleConsumed => none
  | .illegalCommand => none
  | .pollLimit => none

/-- What an error leaves in `LIFE` (R119): an initialization fault kills the block, no other error touches it. -/
def ErrorKind.lifeAfter : ErrorKind → Life → Life
  | .busIdleTimeout _, _ => .dead
  | .pinLowTimeout _, _ => .dead
  | .clockSpeed _, _ => .dead
  | .transport _, l => l
  | .notInitialized, l => l
  | .handleConsumed, l => l
  | .illegalCommand, l => l
  | .pollLimit, l => l

end Sys2Proof.Machine
end

