-- ==== Sys2Proof/Machine/Memory.lean ====
section
/-!
DEFINITION. The map an echoing transport keeps (20_memory.md R46), in one canonical form: pointers strictly rising, no
entry equal to what an unlisted pointer reads as. The block itself has no memory (R30).
-/

namespace Sys2Proof.Machine

/-- What a pointer nothing has written reads as: 0, as the vectors of R46 start (95_test_vectors.md V4). -/
def Memory.unlisted : Word := 0

/-- The canonical form, above a lower bound for the first pointer. -/
def Memory.wfFrom : Nat → Memory → Bool
  | _, [] => true
  | lo, (a, v) :: rest => decide (lo ≤ a) && decide (v ≠ Memory.unlisted) && Memory.wfFrom (a + 1) rest

/-- The canonical form holds. -/
def Memory.wf (m : Memory) : Bool := Memory.wfFrom 0 m

/-- `mem[p]`. -/
def Memory.read : Memory → Nat → Word
  | [], _ => Memory.unlisted
  | (a, v) :: rest, p => if a = p then v else Memory.read rest p

/-- An entry put at the front, unless it is what an unlisted pointer reads as. -/
def Memory.cons (p : Nat) (v : Word) (m : Memory) : Memory :=
  if v = Memory.unlisted then m else (p, v) :: m

/-- `mem[p] <- v`, keeping the canonical form. -/
def Memory.write : Memory → Nat → Word → Memory
  | [], p, v => Memory.cons p v []
  | (a, w) :: rest, p, v =>
    if p < a then Memory.cons p v ((a, w) :: rest)
    else if a = p then Memory.cons p v rest
    else (a, w) :: Memory.write rest p v

end Sys2Proof.Machine
end

