-- ==== Sys2Proof/Machine/Transport.lean ====
section
/-!
DEFINITION. The transport's side of the contract (20_memory.md R31, R32): how the next request is answered. Nothing
constrains the answer: a script holds any answers at all, and the reference environments of R46 fill in where it passes.
-/

namespace Sys2Proof.Machine

/-- The two bytes a word is answered as, first byte received first (R35). -/
def Answer.word (v : Word) : Answer := .ok (hi8 v) (lo8 v)

/-- The one byte a 1-byte read is answered with. -/
def Answer.byte (b : Byte) : Answer := .ok b 0

/-- A setter's `Ok`, which carries no byte. -/
def Answer.unit : Answer := .ok 0 0

/-- How many bytes a request reads back (R31); a setter none. -/
def Request.len : Request → Nat
  | .setBusIdleTimeout _ => 0
  | .setPinLowTimeout _ => 0
  | .setClockSpeed _ => 0
  | .xfer _ _ m => m

/-- The answer as delivered to a request that reads `m` bytes. -/
def Answer.result (m : Nat) : Answer → Result
  | .ok b0 b1 => .ok ([b0, b1].take m)
  | .err e => .err e

/-- `EchoTransport` (R46): a write is stored and echoed, a read answers what is stored. -/
def echoAnswer (mem : Memory) : Request → Option (Answer × Memory)
  | .setBusIdleTimeout _ => some (.unit, mem)
  | .setPinLowTimeout _ => some (.unit, mem)
  | .setClockSpeed _ => some (.unit, mem)
  | .xfer _ [p, h, l] 2 => some (.ok h l, mem.write p.toNat (be16 h l))
  | .xfer _ [p] 2 => some (.word (mem.read p.toNat), mem)
  | .xfer _ [p] 1 => some (.byte (lo8 (mem.read p.toNat)), mem)
  | .xfer _ _ _ => none

/-- `ScriptedDevice` (R46): a configuration write with the start bit makes it busy for `k` polls; then it answers not
busy and the conversion value. Requests R46 gives it no answer for are left unanswered (log entry 10). -/
def scriptedAnswer (k : Nat) (c : Word) (ident : Byte) (cfg : Word) (busy : Nat) :
    Request → Option (Answer × Word × Nat)
  | .setBusIdleTimeout _ => some (.unit, cfg, busy)
  | .setPinLowTimeout _ => some (.unit, cfg, busy)
  | .setClockSpeed _ => some (.unit, cfg, busy)
  | .xfer _ [p, h, l] 2 =>
    if p = 0x01 then
      some (.ok h l, be16 h l, if (be16 h l).extractLsb' 15 1 = 1#1 then k else busy)
    else none
  | .xfer _ [p] 2 =>
    if p = 0x01 then
      match busy with
      | n + 1 => some (.word (cfg &&& 0x7FFF), cfg, n)
      | 0 => some (.word (cfg ||| 0x8000), cfg, 0)
    else if p = 0x00 then some (.word c, cfg, busy)
    else none
  | .xfer _ [p] 1 => if p = 0x75 then some (.byte ident, cfg, busy) else none
  | .xfer _ _ _ => none

/-- The fixture's answer to a request, where it gives one. -/
def Fixture.answer : Fixture → Request → Option (Answer × Fixture)
  | .absent, _ => none
  | .echo mem, req =>
    match echoAnswer mem req with
    | some (a, mem') => some (a, .echo mem')
    | none => none
  | .scripted k c ident cfg busy, req =>
    match scriptedAnswer k c ident cfg busy req with
    | some (a, cfg', busy') => some (a, .scripted k c ident cfg' busy')
    | none => none

/-- The setting a setter answered `Ok` leaves in the transport (R23). -/
def Transport.applySetting (t : Transport) : Request → Transport
  | .setBusIdleTimeout us => { t with busIdleUs := some us }
  | .setPinLowTimeout us => { t with pinLowUs := some us }
  | .setClockSpeed hz => { t with clockHz := some hz }
  | .xfer _ _ _ => t

/-- A setter that failed or was abandoned: what its setting is now is not known (93_implementation_defined.md U13, log
entry 16); the settings made before it stay (R119). -/
def Transport.forgetSetting (t : Transport) : Request → Transport
  | .setBusIdleTimeout _ => { t with busIdleUs := none }
  | .setPinLowTimeout _ => { t with pinLowUs := none }
  | .setClockSpeed _ => { t with clockHz := none }
  | .xfer _ _ _ => t

/-- The effect of an answer on the transport's settings. -/
def Transport.settle (t : Transport) (req : Request) : Answer → Transport
  | .ok _ _ => t.applySetting req
  | .err _ => t.forgetSetting req

/-- The fixture's answer, with `rest` the script left. -/
def Transport.askFixture (t : Transport) (rest : List Reply) (req : Request) : Option (Answer × Transport) :=
  match t.fixture.answer req with
  | some (a, f) => some (a, ({ t with script := rest, fixture := f } : Transport).settle req a)
  | none => none

/-- One request put to the transport: its answer and the transport afterwards, or nothing while it does not answer. An
answer from the script leaves the fixture as it was. -/
def Transport.ask (t : Transport) (req : Request) : Option (Answer × Transport) :=
  match t.script with
  | .ok b0 b1 :: rest => some (.ok b0 b1, ({ t with script := rest } : Transport).applySetting req)
  | .err e :: rest => some (.err e, ({ t with script := rest } : Transport).forgetSetting req)
  | .pass :: rest => t.askFixture rest req
  | .reset _ :: _ => none
  | [] => t.askFixture [] req

end Sys2Proof.Machine
end

