-- ==== Sys2Proof/Machine/Ops.lean ====
section
/-!
DEFINITION. The shared operations: putting a request to the transport (20_memory.md R31), the two operations of the RPU
(40_register_protocol.md R70, R71), ending an operation with a result, raising an error (60_exceptions.md R118, R119),
accepting an operation (42_driver_sequencer.md R98, R99) and the two resets (70_reset_and_hazards.md R130 to R133).
An error is the block's only exception; there is no handler, hence no return from one (R121).
-/

namespace Sys2Proof.Machine

/-- `pc <- p` (R6). -/
def State.moveTo (s : State) (p : Phase) : State := { s with phase := p }

/-- `x[TXBUF] <- [b0, b1, b2]`. -/
def State.setTx (s : State) (b0 b1 b2 : Byte) : State := { s with txbuf := ⟨b0, b1, b2⟩ }

/-- `x[TXBUF][0] <- b`. -/
def State.setTx0 (s : State) (b : Byte) : State := { s with txbuf := { s.txbuf with b0 := b } }

/-- `x[RXBUF] <- [b0, b1]`. -/
def State.setRx (s : State) (b0 b1 : Byte) : State := { s with rxbuf := ⟨b0, b1⟩ }

/-- `x[RXBUF][0] <- b`. -/
def State.setRx0 (s : State) (b : Byte) : State := { s with rxbuf := { s.rxbuf with b0 := b } }

/-! ### Ending an operation -/

/-- The response to an operation that succeeded (R55). -/
def Response.success (v : Word) : Response := ⟨1, 0, v, none⟩

/-- The response to an operation that raised an error (R118). -/
def Response.failure (e : ErrorKind) : Response := ⟨0, e.code, 0, e.payload⟩

/-- `return v` (R6): the operation ends with `Ok(v)` and the block waits for the next (R146). -/
def State.finish (s : State) (v : Word) : State :=
  { s with phase := .idle, trace := .response (.success v) :: s.trace }

/-- `raise E(info)` (R118): the state changes R119 lists for the error, `PHASE <- IDLE`, the error response. Nothing is
saved and control goes to the host. -/
def State.raise (s : State) (e : ErrorKind) : State :=
  { s with life := e.lifeAfter s.life, phase := .idle, trace := .response (.failure e) :: s.trace }

/-! ### One request and its answer (R31, R40) -/

/-- The state once a request has been answered: the transport moved on, the exchange recorded. -/
def State.answered (s : State) (req : Request) (a : Answer) (t : Transport) : State :=
  { s with transport := t, trace := .request req (a.result req.len) :: s.trace }

/-- One blocking request. While no answer has come the block takes no other step. -/
def transact (req : Request) (s : State) : Txn :=
  match s.transport.ask req with
  | none => .blocked s
  | some (.err e, t) => .failed e (s.answered req (.err e) t)
  | some (.ok b0 b1, t) => .got b0 b1 (s.answered req (.ok b0 b1) t)

/-- Two bytes received go to `RXBUF`; on an error it is not looked at (R70). -/
def Txn.intoRx : Txn → Txn
  | .got b0 b1 s => .got b0 b1 (s.setRx b0 b1)
  | .failed e s => .failed e s
  | .blocked s => .blocked s

/-- One byte received goes to `RXBUF[0]` (R96). -/
def Txn.intoRx0 : Txn → Txn
  | .got b0 b1 s => .got b0 b1 (s.setRx0 b0)
  | .failed e s => .failed e s
  | .blocked s => .blocked s

/-- WRITE_REGISTER of the RPU (R70), with no guard of its own (R76). -/
def rpuWrite (reg : Reg) (v : Word) (s : State) : Txn :=
  (transact (.xfer s.devAddr [reg.ptr, hi8 v, lo8 v] 2) (s.setTx reg.ptr (hi8 v) (lo8 v))).intoRx

/-- READ_REGISTER of the RPU (R71), with no guard of its own (R76). -/
def rpuRead (reg : Reg) (s : State) : Txn :=
  (transact (.xfer s.devAddr [reg.ptr] 2) (s.setTx0 reg.ptr)).intoRx

/-- The 1-byte read of the diagnostic register (R53, R96). -/
def rpuReadByte (s : State) : Txn :=
  (transact (.xfer s.devAddr [Config.whoamiReg] 1) (s.setTx0 Config.whoamiReg)).intoRx0

/-- A transaction's end: on an error `Transport(e)`, with `e` unchanged (R73, R112), else what its phase does next. -/
def Txn.complete (r : Txn) (onOk : Byte → Byte → State → State) : Host.Outcome State Fault Refusal :=
  match r with
  | .blocked s => .next s
  | .failed e s => .next (s.raise (.transport e))
  | .got b0 b1 s => .next (onOk b0 b1 s)

/-- A frame is sent only in a phase whose one request it is (R17); in another phase nothing happens (log entry 9). -/
def whenIssued (issued : Bool) (s : State) (r : Host.Outcome State Fault Refusal) :
    Host.Outcome State Fault Refusal :=
  if issued then r else .next s

/-! ### Accepting an operation -/

/-- Acceptance (R98, R99, R117): nothing is taken while the port is not ready; an illegal gain code comes before the
lifecycle guard, and the guard before the operation. -/
def accept (i : Instr) (s : State) (run : State → State) : Host.Outcome State Fault Refusal :=
  if s.phase = .idle then
    if WellFormed s.params i then
      match lifeGuard s.life i with
      | some e => .next (s.raise e)
      | none => .next (run s)
    else .next (s.raise .illegalCommand)
  else .next s

/-! ### Reset -/

/-- Reset (R130 to R132): the block's registers take their reset values, the transport and the device keep what they
have, and no request is made. -/
def State.resetBlock (s : State) (clkHz : Option Nat) : State :=
  { State.reset with
    clkHz := clkHz.getD Config.clkHzDefault
    params := s.params
    host := s.host
    transport := s.transport
    trace := .reset (clkHz.getD Config.clkHzDefault) :: s.trace }

/-- The transport once the request of this phase is abandoned in flight. What became of it is a draw (R133): a setting
it was to make is not known, and no fixture stands for the device any more, so that later answers are the script's
alone (log entry 11). -/
def Transport.abandon (t : Transport) (p : Phase) (rest : List Reply) : Transport :=
  let t' : Transport := { t with script := rest, fixture := .absent }
  match p with
  | .initIdleTo => t'.forgetSetting (.setBusIdleTimeout 0)
  | .initPinLow => t'.forgetSetting (.setPinLowTimeout 0)
  | .initClock => t'.forgetSetting (.setClockSpeed 0)
  | _ => t'

/-- Reset while an operation runs (R133): it is abandoned without a response. -/
def State.abandon (s : State) (clkHz : Option Nat) (rest : List Reply) : State :=
  { s with transport := s.transport.abandon s.phase rest }.resetBlock clkHz

end Sys2Proof.Machine
end

