-- ==== Sys2Proof/Machine/Accessors.lean ====
section
/-!
DEFINITION. The accessors (42_driver_sequencer.md R92 to R95). None makes a transport request.
-/

namespace Sys2Proof.Machine

/-- SET_GAIN (R92); a code outside `GAIN_CODE` is refused (R62). -/
def execSetGain (g : Code) (s : State) : Host.Outcome State Fault Refusal :=
  accept (.setGain g) s fun s => { s with gain := g }.finish 0

/-- GET_GAIN (R93). -/
def execGetGain (s : State) : Host.Outcome State Fault Refusal :=
  accept .getGain s fun s => s.finish (zextCode s.gain)

/-- SET_DATA_RATE (R94). -/
def execSetDataRate (r : Code) (s : State) : Host.Outcome State Fault Refusal :=
  accept (.setDataRate r) s fun s => { s with rate := r }.finish 0

/-- GET_DATA_RATE (R95). -/
def execGetDataRate (s : State) : Host.Outcome State Fault Refusal :=
  accept .getDataRate s fun s => s.finish (zextCode s.rate)

end Sys2Proof.Machine
end

