-- ==== Sys2Proof/Machine/Initialise.lean ====
section
/-!
DEFINITION. INITIALIZE (42_driver_sequencer.md R90): its acceptance and its three setter requests, each a phase of its
own (R100).
-/

namespace Sys2Proof.Machine

/-- INITIALIZE accepted (R90, R100): the next request is the bus-idle timeout. -/
def execInitialise (s : State) : Host.Outcome State Fault Refusal :=
  accept .initialise s fun s => s.moveTo .initIdleTo

/-- One setter request: on an error the initialization fault of that setter, else `onOk`. -/
def setterStep (req : Request) (fault : TransportError → ErrorKind) (onOk : State → State) (s : State) : State :=
  match transact req s with
  | .blocked s => s
  | .failed e s => s.raise (fault e)
  | .got _ _ s => onOk s

/-- Phase `INIT_IDLE_TO`. -/
def stepInitIdleTo (s : State) : State :=
  setterStep (.setBusIdleTimeout Config.busIdleTimeoutUs) .busIdleTimeout (fun s => s.moveTo .initPinLow) s

/-- Phase `INIT_PIN_LOW`. -/
def stepInitPinLow (s : State) : State :=
  setterStep (.setPinLowTimeout Config.pinLowTimeoutUs) .pinLowTimeout (fun s => s.moveTo .initClock) s

/-- INITIALIZE succeeded: `GAIN`, `RATE` and `LIFE` take their values and the response is `Ok(0)`. -/
def initDone (s : State) : State :=
  { s with gain := s.params.gainInit, rate := s.params.rateInit, life := .init }.finish 0

/-- Phase `INIT_CLOCK`. -/
def stepInitClock (s : State) : State :=
  setterStep (.setClockSpeed s.clkHz) .clockSpeed initDone s

end Sys2Proof.Machine
end

