-- ==== Sys2Proof/Machine/Cfs.lean ====
section
/-!
DEFINITION. The configuration serializer (41_config_serializer.md): a pure function to the 16-bit configuration word, and
the two instructions made of it: CFG_ASSEMBLE at the command port and the configuration word as a payload.
-/

namespace Sys2Proof.Machine

/-- A pre-shifted constant (R54): a code at its field's shift. -/
def preShifted {n : Nat} (code : BitVec n) (shift : Nat) : Word := code.setWidth 16 <<< shift

/-- `BASE`, the fixed defaults (R88). -/
def cfgBase (p : Params) : Word :=
  preShifted p.modeSingle 8 ||| preShifted p.cmodeTrad 4 ||| preShifted p.cpolActiveLow 3
    ||| preShifted p.clatNonlatching 2 ||| preShifted p.cqueDisable 0

/-- The three steps of R80 for a mux pattern: base with gain and rate, the mux field, the start bit. -/
def assemble (p : Params) (mux gain rate : Code) : Word :=
  ((cfgBase p ||| preShifted gain 9 ||| preShifted rate 5) ||| preShifted mux 12) ||| 0x8000

/-- `CFG_ASSEMBLE(ch, g, r)` (R80). -/
def cfgAssembleWord (p : Params) (ch : Channel) (gain rate : Code) : Word := assemble p (p.mux ch) gain rate

/-- CFG_ASSEMBLE at the command port (R97): the word READ_SINGLE would write, with no request. -/
def execCfgAssemble (ch : Channel) (s : State) : Host.Outcome State Fault Refusal :=
  accept (.cfgAssemble ch) s fun s => s.finish (cfgAssembleWord s.params ch s.gain s.rate)

end Sys2Proof.Machine
end

