-- ==== Sys2Proof/Machine/Sample.lean ====
section
/-!
DEFINITION. READ_SINGLE (42_driver_sequencer.md R91): its acceptance and what its phases do with their answers. The
requests themselves are the frames of Machine/Rpu.lean.
-/

namespace Sys2Proof.Machine

/-- READ_SINGLE accepted: steps 1 to 3 of R91; the next request is the configuration write. -/
def execReadSingle (ch : Channel) (s : State) : Host.Outcome State Fault Refusal :=
  accept (.readSingle ch) s fun s =>
    { s with chan := ch.index, cfgw := cfgAssembleWord s.params ch s.gain s.rate }.moveTo .rsWrite

/-- After the configuration write (R91): the word read back is discarded (D8), `POLLS` starts at 0 if it exists, and the
next request is the poll. -/
def startPolling (s : State) : State :=
  match s.params.maxPolls with
  | none => s.moveTo .rsPoll
  | some _ => { s with polls := 0 }.moveTo .rsPoll

/-- After a poll (R91, R104): a set status bit ends the loop; a clear one is counted if there is a cap and polls again,
unless the cap is reached (R114). -/
def afterPoll (w : Word) (s : State) : State :=
  if statusBit w then s.moveTo .rsRead
  else
    match s.params.maxPolls with
    | none => s
    | some n =>
      if s.polls + 1 = n then { s with polls := s.polls + 1 }.raise .pollLimit
      else { s with polls := s.polls + 1 }

end Sys2Proof.Machine
end

