-- ==== Sys2Proof/Machine/Rpu.lean ====
section
/-!
DEFINITION. The register protocol unit: the frames FW, FR, FB and the configuration word as the sequencer sends them, one
transaction each (30_encoding.md R51 to R54, 42_driver_sequencer.md R100), and the command-port operations that lead to
one frame: WRITE_REGISTER, READ_REGISTER (R97) and WHO_AM_I (R96).
-/

namespace Sys2Proof.Machine

/-- What the phase does with the two bytes a write frame returned: READ_SINGLE goes on to poll, the command-port
WRITE_REGISTER returns them as a word (R70). -/
def afterWrite (b0 b1 : Byte) (s : State) : State :=
  match s.phase with
  | .rsWrite => startPolling s
  | _ => s.finish (be16 b0 b1)

/-- What the phase does with the word a read frame returned: the poll tests it, the conversion read and the command-port
READ_REGISTER return it (R71, R91). -/
def afterRead (b0 b1 : Byte) (s : State) : State :=
  match s.phase with
  | .rsPoll => afterPoll (be16 b0 b1) s
  | _ => s.finish (be16 b0 b1)

/-- The phases whose request is a write frame to this register (R17). -/
def issuesFw (reg : Reg) : Phase → Bool
  | .regWrite => true
  | .rsWrite => reg == .config
  | _ => false

/-- The phases whose request is a read frame of this register (R17). -/
def issuesFr (reg : Reg) : Phase → Bool
  | .regRead => true
  | .rsPoll => reg == .config
  | .rsRead => reg == .conversion
  | _ => false

/-- FW (R51): the transaction of R70, then what its phase does next. -/
def execFw (reg : Reg) (v : Word) (s : State) : Host.Outcome State Fault Refusal :=
  whenIssued (issuesFw reg s.phase) s ((rpuWrite reg v s).complete afterWrite)

/-- FR (R52): the transaction of R71, then what its phase does next. -/
def execFr (reg : Reg) (s : State) : Host.Outcome State Fault Refusal :=
  whenIssued (issuesFr reg s.phase) s ((rpuRead reg s).complete afterRead)

/-- FB (R53): the transaction of R96; the byte is the result, zero-extended at the response port. -/
def execFb (s : State) : Host.Outcome State Fault Refusal :=
  whenIssued (s.phase == .waiRead) s ((rpuReadByte s).complete fun b _ s => s.finish (zextByte b))

/-- CW (R54, R80): the word the CFS makes of these codes, sent as the payload of the write frame to pointer 0x01 when
READ_SINGLE writes the configuration register (R91 step 4). -/
def execCw (mux gain rate : Code) (s : State) : Host.Outcome State Fault Refusal :=
  whenIssued (s.phase == .rsWrite) s
    ((rpuWrite .config (assemble s.params mux gain rate) s).complete afterWrite)

/-- WRITE_REGISTER at the command port (R97): the frame is put in `TXBUF` and goes out in phase `REG_WRITE`. -/
def execWriteRegister (reg : Reg) (v : Word) (s : State) : Host.Outcome State Fault Refusal :=
  accept (.writeRegister reg v) s fun s => (s.setTx reg.ptr (hi8 v) (lo8 v)).moveTo .regWrite

/-- READ_REGISTER at the command port (R97): the pointer byte is put in `TXBUF[0]` and goes out in phase `REG_READ`. -/
def execReadRegister (reg : Reg) (s : State) : Host.Outcome State Fault Refusal :=
  accept (.readRegister reg) s fun s => (s.setTx0 reg.ptr).moveTo .regRead

/-- WHO_AM_I (R96): the diagnostic pointer is put in `TXBUF[0]` and goes out in phase `WAI_READ`. -/
def execWhoAmI (s : State) : Host.Outcome State Fault Refusal :=
  accept .whoAmI s fun s => (s.setTx0 Config.whoamiReg).moveTo .waiRead

end Sys2Proof.Machine
end

