-- ==== Sys2Proof/Machine/Dispatch.lean ====
section
/-!
DEFINITION. The meaning of every instruction, one arm each.
-/

namespace Sys2Proof.Machine

/-- The meaning of an instruction. -/
def exec (i : Instr) (s : State) : Host.Outcome State Fault Refusal :=
  match i with
  | .initialise => Sys2Proof.Machine.execInitialise s
  | .readSingle ch => Sys2Proof.Machine.execReadSingle ch s
  | .setGain g => Sys2Proof.Machine.execSetGain g s
  | .getGain => Sys2Proof.Machine.execGetGain s
  | .setDataRate r => Sys2Proof.Machine.execSetDataRate r s
  | .getDataRate => Sys2Proof.Machine.execGetDataRate s
  | .whoAmI => Sys2Proof.Machine.execWhoAmI s
  | .cfgAssemble ch => Sys2Proof.Machine.execCfgAssemble ch s
  | .writeRegister reg v => Sys2Proof.Machine.execWriteRegister reg v s
  | .readRegister reg => Sys2Proof.Machine.execReadRegister reg s
  | .fw reg v => Sys2Proof.Machine.execFw reg v s
  | .fr reg => Sys2Proof.Machine.execFr reg s
  | .fb => Sys2Proof.Machine.execFb s
  | .cw mux gain rate => Sys2Proof.Machine.execCw mux gain rate s

end Sys2Proof.Machine
end

