-- ==== Sys2Proof/Machine/Fetch.lean ====
section
/-!
DEFINITION. What the block does next (42_driver_sequencer.md R100): in `IDLE` it takes what the host presents, in any
other phase it makes the one request the phase stands for (10_state.md R17). There is no instruction memory.
-/

namespace Sys2Proof.Machine

/-- The frame a transaction phase sends (R17, R100). The payload of the configuration write is read as the configuration
word it is; a word that is none goes out as any other (R100 says `w` is `x[CFGW]`, whatever it holds). -/
def frameOf (s : State) : Except DecodeError Instr :=
  match s.phase with
  | .rsWrite =>
    match decodePayload s.params s.cfgw with
    | .ok i => .ok i
    | .error _ => .ok (.fw .config s.cfgw)
  | .rsPoll => decodeFrame [Reg.ptr .config] 2
  | .rsRead => decodeFrame [Reg.ptr .conversion] 2
  | .waiRead => decodeFrame [Config.whoamiReg] 1
  | .regWrite => decodeFrame [s.txbuf.b0, s.txbuf.b1, s.txbuf.b2] 2
  | .regRead => decodeFrame [s.txbuf.b0] 2
  | .idle => .error .unknownFrame
  | .initIdleTo => .error .unknownFrame
  | .initPinLow => .error .unknownFrame
  | .initClock => .error .unknownFrame

/-- `IDLE` (R99, R145): the block waits, is reset, or takes a command word; a word that decodes to no operation is
refused with `IllegalCommand` (R60, R61). -/
def fetchCommand (s : State) : Turn :=
  match s.host with
  | [] => .done s
  | .reset clk :: rest => .done ({ s with host := rest }.resetBlock clk)
  | .command w :: rest =>
    match decodeCommand w with
    | .ok i => .run i { s with host := rest }
    | .error _ => .done ({ s with host := rest }.raise .illegalCommand)

/-- A phase of INITIALIZE makes its setter request, any other busy phase sends its frame. -/
def fetchRequest (s : State) : Turn :=
  match s.phase with
  | .initIdleTo => .done (stepInitIdleTo s)
  | .initPinLow => .done (stepInitPinLow s)
  | .initClock => .done (stepInitClock s)
  | _ =>
    match frameOf s with
    | .ok i => .run i s
    | .error _ => .stop .undefinedPointer

/-- The block's next turn. A reset that comes while a request is in flight abandons the operation (R133). -/
def fetch (s : State) : Turn :=
  if s.phase = .idle then fetchCommand s
  else
    match s.transport.script with
    | .reset clk :: rest => .done (s.abandon clk rest)
    | _ => fetchRequest s

/-- A script without the resets at its front: what an in-flight request needs to be answered. -/
def dropResets : List Reply → List Reply
  | .reset _ :: rest => dropResets rest
  | script => script

/-- The state in which the next step sends the frame in `TXBUF`, `CFGW` or the fixed frame of phase `p`. -/
def State.sending (s : State) (p : Phase) : State :=
  { s with phase := p, transport := { s.transport with script := dropResets s.transport.script } }

/-- The state in which the next step runs an encoding: a command is presented first at the port, a frame stands in
`TXBUF` in the phase that sends it, a payload in `CFGW` (log entry 7). -/
def State.withEncoded (s : State) : Encoded → State
  | .command w => { s with phase := .idle, host := .command w :: s.host }
  | .frame [b0, b1, b2] _ => (s.setTx b0 b1 b2).sending .regWrite
  | .frame [b] 1 => (s.setTx0 b).sending .waiRead
  | .frame [b] _ => (s.setTx0 b).sending .regRead
  | .frame _ _ => s
  | .payload w => { s with cfgw := w }.sending .rsWrite

end Sys2Proof.Machine
end

