-- ==== Sys2Proof/Safety.lean ====
section
/-!
DEFINITION. What counts as a safe run, in the terms the statements use: runs of several steps, what the record of the
ports says, and the invariant of the block (10_state.md R11, R13, R18, R26; 60_exceptions.md R123).
-/

namespace Sys2Proof.Machine

/-- `n` steps, ending at the first fault or refusal. -/
def steps : Nat → State → Host.Outcome State Fault Refusal
  | 0, s => .next s
  | n + 1, s =>
    match step s with
    | .next s' => steps n s'
    | .fault f => .fault f
    | .refused r => .refused r

/-! ### The record of the ports -/

/-- How many transactions (`T.Xfer`) a record holds. -/
def xferCount : List Event → Nat
  | [] => 0
  | .request (.xfer _ _ _) _ :: t => xferCount t + 1
  | _ :: t => xferCount t

/-- How many requests of any kind a record holds. -/
def requestCount : List Event → Nat
  | [] => 0
  | .request _ _ :: t => requestCount t + 1
  | _ :: t => requestCount t

/-- How many responses a record holds. -/
def responseCount : List Event → Nat
  | [] => 0
  | .response _ :: t => responseCount t + 1
  | _ :: t => responseCount t

/-- How many of the three setters have been answered `Ok` in their order since the last reset (R26, R90): 3 when the bus
is configured. -/
def setupLevel : List Event → Nat
  | [] => 0
  | .reset _ :: _ => 0
  | .request (.setBusIdleTimeout _) (.ok _) :: t => if setupLevel t = 0 then 1 else setupLevel t
  | .request (.setPinLowTimeout _) (.ok _) :: t => if setupLevel t = 1 then 2 else setupLevel t
  | .request (.setClockSpeed _) (.ok _) :: t => if setupLevel t = 2 then 3 else setupLevel t
  | _ :: t => setupLevel t

/-- The three shapes of a transaction (R37), with the pointer bytes an operation may emit (R33). -/
def xferShape : List Byte → Nat → Bool
  | [p, _, _], 2 => (Reg.ofPtr p).isSome
  | [p], 2 => (Reg.ofPtr p).isSome
  | [p], 1 => p == Config.whoamiReg
  | _, _ => false

/-- Whether a request may follow a record: each setter in its turn and with its constant (R90), a transaction only on a
configured bus, to `DEV_ADDR`, in one of the three shapes (R123, R11, R37). -/
def mayRequest (t : List Event) : Request → Bool
  | .setBusIdleTimeout us => setupLevel t == 0 && us == Config.busIdleTimeoutUs
  | .setPinLowTimeout us => setupLevel t == 1 && us == Config.pinLowTimeoutUs
  | .setClockSpeed _ => setupLevel t == 2
  | .xfer addr out m => setupLevel t == 3 && addr == Config.devAddr && xferShape out m

/-- Every request of the record was one that might be made. -/
def safeTrace : List Event → Bool
  | [] => true
  | .request req _ :: t => mayRequest t req && safeTrace t
  | .response _ :: t => safeTrace t
  | .reset _ :: t => safeTrace t

/-! ### The frame being sent -/

/-- What stands in `TXBUF` while the request of the phase is in flight (R17, R70, R71, R96): the bytes being sent, and
behind a single byte what stood there before. `REG_WRITE` and `REG_READ` send what `TXBUF` holds; a setter sends no
byte. -/
def frameSent (s : State) : TxBuf :=
  match s.phase with
  | .rsWrite => ⟨0x01, hi8 s.cfgw, lo8 s.cfgw⟩
  | .rsPoll => { s.txbuf with b0 := 0x01 }
  | .rsRead => { s.txbuf with b0 := 0x00 }
  | .waiRead => { s.txbuf with b0 := 0x75 }
  | .regWrite => s.txbuf
  | .regRead => s.txbuf
  | .idle => s.txbuf
  | .initIdleTo => s.txbuf
  | .initPinLow => s.txbuf
  | .initClock => s.txbuf

/-! ### The invariant -/

/-- The phases of INITIALIZE (R17). -/
def Phase.isInit : Phase → Bool
  | .initIdleTo => true
  | .initPinLow => true
  | .initClock => true
  | _ => false

/-- The phases whose request is a transaction (R17). -/
def Phase.isXfer : Phase → Bool
  | .rsWrite => true
  | .rsPoll => true
  | .rsRead => true
  | .waiRead => true
  | .regWrite => true
  | .regRead => true
  | _ => false

/-- Which lifecycle state a phase is possible in (R98, R123). -/
def lifeFits (p : Phase) (l : Life) : Bool :=
  (!p.isInit || l == .uninit) && (!p.isXfer || l == .init)

/-- How far the setup of the bus has come, by phase and lifecycle state (R26, R90). -/
def levelFits (p : Phase) (l : Life) (level : Nat) : Bool :=
  match p, l with
  | _, .init => level == 3
  | .idle, .uninit => level == 0
  | .initIdleTo, .uninit => level == 0
  | .initPinLow, .uninit => level == 1
  | .initClock, .uninit => level == 2
  | _, _ => true

/-- The canonical form of the one memory the state may hold, an echoing transport's (R46). -/
def Fixture.wf : Fixture → Bool
  | .absent => true
  | .echo mem => mem.wf
  | .scripted _ _ _ _ _ => true

/-- The invariant every step keeps and reset establishes. -/
structure Inv (s : State) : Prop where
  /-- The parameters are ones R4 admits. -/
  params_wf : s.params.wf = true
  /-- `DEV_ADDR` holds 0x48 (R11). -/
  dev_addr : s.devAddr = Config.devAddr
  /-- `GAIN` holds a legal code while it lives (R13). -/
  gain_legal : s.life = .init → gainLegal s.params s.gain = true
  /-- A request's phase fits the lifecycle state (R123). -/
  life_fits : lifeFits s.phase s.life = true
  /-- `LIFE = INIT` means the three setters were answered `Ok` in order since reset (R26). -/
  level_fits : levelFits s.phase s.life (setupLevel s.trace) = true
  /-- The word about to be written is the one the CFS makes (R91 steps 1 to 3). -/
  cfgw_made : s.phase = .rsWrite →
    ∃ ch, s.chan = Channel.index ch ∧ s.cfgw = cfgAssembleWord s.params ch s.gain s.rate
  /-- A command-port frame about to be sent names one of the four registers (R34). -/
  tx_names : s.phase = .regWrite ∨ s.phase = .regRead → ∃ r, s.txbuf.b0 = Reg.ptr r
  /-- While polling the cap, if any, is not reached (R91). -/
  polls_below : s.phase = .rsPoll → ∀ n, s.params.maxPolls = some n → s.polls < n
  /-- The fixture's memory is canonical. -/
  memory_wf : s.transport.fixture.wf = true
  /-- No request was made that might not be (R123). -/
  trace_safe : safeTrace s.trace = true

end Sys2Proof.Machine
end

