-- ==== Sys2Proof/Certificates/Slice0/Obligations.lean ====
section
/-!
DEFINITION. The statements for the provers. Each docstring names the rule of spec/ a statement formalises, or says that
it is the model's choice and names the log entry. A next state is written out whole: the fields it does not name are
those of the state before, so every equation is also the instruction's frame. Wherever a response or the record is
written out, that `terr` is `none` where R55 gives it no meaning, and that there is a record of the ports at all, is the
model's choice (log entries 21 and 17). So is that a register keeps its bits where R12, R119 or R123 says that it holds
no value (log entry 22).
-/

open Sys2Proof Sys2Proof.Machine

/-! ### Encoding -/

/-- R51 to R55: decoding an instruction's encoding gives it back, with every operand at every value. -/
def Obligations.DecodeOfEncode : Prop :=
  ∀ (p : Params) (i : Instr), decode p (encode p i) = .ok i

/-- R51 to R55, R61: whatever decodes is the encoding of what it decodes to; no bit is ignored. -/
def Obligations.EncodeOfDecode : Prop :=
  ∀ (p : Params) (e : Encoded) (i : Instr), decode p e = .ok i → encode p i = e

/-- Command words of 95_test_vectors.md V30, one of each operation, and the frames of V1, V2 and R53. -/
def Obligations.KnownWordsDecode : Prop :=
  decodeCommand 0x000000 = .ok .initialise ∧ decodeCommand 0x120000 = .ok (.readSingle .ch2) ∧
  decodeCommand 0x230000 = .ok (.setGain 3) ∧ decodeCommand 0x300000 = .ok .getGain ∧
  decodeCommand 0x450000 = .ok (.setDataRate 5) ∧ decodeCommand 0x500000 = .ok .getDataRate ∧
  decodeCommand 0x600000 = .ok .whoAmI ∧ decodeCommand 0x720000 = .ok (.cfgAssemble .ch2) ∧
  decodeCommand 0x837FFF = .ok (.writeRegister .hiThresh 0x7FFF) ∧
  decodeCommand 0x910000 = .ok (.readRegister .config) ∧
  decodeFrame [0x01, 0xC5, 0x83] 2 = .ok (.fw .config 0xC583) ∧ decodeFrame [0x02] 2 = .ok (.fr .loThresh) ∧
  decodeFrame [0x75] 1 = .ok .fb ∧ decodePayload Params.default 0xC583 = .ok (.cw 0b100 0b010 0b100)

/-- The match and mask of each CMD row of spec/opcode_table.json. -/
def commandRows : List (Command × Command) :=
  [(0x000000, 0xFFFFFF), (0x100000, 0xFCFFFF), (0x200000, 0xF8FFFF), (0x300000, 0xFFFFFF), (0x400000, 0xF8FFFF),
   (0x500000, 0xFFFFFF), (0x600000, 0xFFFFFF), (0x700000, 0xFCFFFF), (0x800000, 0xFC0000), (0x900000, 0xFCFFFF)]

/-- R59: the decoder refuses exactly the command words that match no CMD row of the opcode table. -/
def Obligations.RefusedWordsMatchNoRow : Prop :=
  ∀ w : Command, (∃ e, decodeCommand w = .error e) ↔ ∀ r ∈ commandRows, w &&& r.2 ≠ r.1

/-- R60: a reserved opcode is refused; the refusal of a command word answers `IllegalCommand`, makes no request and
changes no register. -/
def Obligations.ReservedOpcodeRefused : Prop :=
  ∀ (s : State) (w : Command) (rest : List HostInput),
    s.phase = .idle → s.host = .command w :: rest → 0xA ≤ (cmdOp w).toNat →
    step s = .next { s with host := rest, trace := .response ⟨0, 7, 0, none⟩ :: s.trace }

/-- R61: a word with a bit set that the table of R55 shows as 0 is refused exactly as one with a reserved opcode. -/
def Obligations.StrayBitRefused : Prop :=
  ∀ (s : State) (w : Command) (rest : List HostInput),
    s.phase = .idle → s.host = .command w :: rest → (cmdOp w).toNat ≤ 0x9 → (∀ r ∈ commandRows, w &&& r.2 ≠ r.1) →
    step s = .next { s with host := rest, trace := .response ⟨0, 7, 0, none⟩ :: s.trace }

/-- R62: SET_GAIN with a code that is no gain code is refused in every lifecycle state and `GAIN` keeps its value; under
the default codes these are 0b110 and 0b111. -/
def Obligations.IllegalGainCodeRefused : Prop :=
  (∀ (s : State) (g : Code), s.phase = .idle → (∀ i : Fin 6, s.params.gainCode[i] ≠ g) →
    exec (.setGain g) s = .next { s with trace := .response ⟨0, 7, 0, none⟩ :: s.trace }) ∧
  (∀ g : Code, (∀ i : Fin 6, Params.default.gainCode[i] ≠ g) ↔ g = 0b110 ∨ g = 0b111)

/-- R56, R57: a frame carries a word's high byte and then its low byte, splitting a word into bytes and joining them
big-endian are inverse, and the status bit of the word is the top bit of the first byte. -/
def Obligations.ByteOrderInverse : Prop :=
  (∀ (p : Params) (reg : Reg) (v : Word),
    encode p (.fw reg v) = .frame [reg.ptr, v.extractLsb' 8 8, v.extractLsb' 0 8] 2) ∧
  (∀ v : Word, be16 (hi8 v) (lo8 v) = v) ∧
  (∀ a b : Byte, hi8 (be16 a b) = a ∧ lo8 (be16 a b) = b ∧ statusBit (be16 a b) = a.getLsbD 7)

/-! ### The configuration serializer -/

/-- R80: the three steps of OR make the concatenation of the nine fields from bit 15 down. -/
def Obligations.CfgIsConcatenation : Prop :=
  ∀ (p : Params) (ch : Channel) (g r : Code),
    cfgAssembleWord p ch g r =
      BitVec.cast (show 1 + 3 + 3 + 1 + 3 + 1 + 1 + 1 + 2 = 16 from rfl)
        (1#1 ++ p.mux ch ++ g ++ p.modeSingle ++ r ++ p.cmodeTrad ++ p.cpolActiveLow ++ p.clatNonlatching
          ++ p.cqueDisable)

/-- R86: every field of the assembled word is its operand's or its fixed default's, and on the disjoint fields OR is
addition. -/
def Obligations.CfgFieldsIndependent : Prop :=
  ∀ (p : Params) (ch : Channel) (g r : Code),
    let w := cfgAssembleWord p ch g r
    w.extractLsb' 15 1 = 1 ∧ w.extractLsb' 12 3 = p.mux ch ∧ w.extractLsb' 9 3 = g ∧
    w.extractLsb' 8 1 = p.modeSingle ∧ w.extractLsb' 5 3 = r ∧ w.extractLsb' 4 1 = p.cmodeTrad ∧
    w.extractLsb' 3 1 = p.cpolActiveLow ∧ w.extractLsb' 2 1 = p.clatNonlatching ∧
    w.extractLsb' 0 2 = p.cqueDisable ∧
    w = 0x8000#16 + ((p.mux ch).setWidth 16 <<< 12) + (g.setWidth 16 <<< 9) + (r.setWidth 16 <<< 5) + cfgBase p

/-- R87: with distinct codes each operand triple makes a word of its own. -/
def Obligations.CfgInjective : Prop :=
  ∀ (p : Params), p.wf = true → ∀ (ch ch' : Channel) (g g' r r' : Code),
    cfgAssembleWord p ch g r = cfgAssembleWord p ch' g' r' → ch = ch' ∧ g = g' ∧ r = r'

/-- R88: `BASE` is the OR of the five fixed defaults at their shifts, has bits 15:9 and 7:5 zero, and is 0x0103 under
the default codes. -/
def Obligations.CfgBaseFields : Prop :=
  (∀ p : Params, cfgBase p =
    (p.modeSingle.setWidth 16 <<< 8) ||| (p.cmodeTrad.setWidth 16 <<< 4) ||| (p.cpolActiveLow.setWidth 16 <<< 3)
      ||| (p.clatNonlatching.setWidth 16 <<< 2) ||| p.cqueDisable.setWidth 16) ∧
  (∀ p : Params, (cfgBase p).extractLsb' 9 7 = 0 ∧ (cfgBase p).extractLsb' 5 3 = 0) ∧ cfgBase Params.default = 0x0103

/-! ### A step -/

/-- R99, R100: in `IDLE` a step runs the instruction the presented command word decodes to, the word taken. -/
def Obligations.StepRunsCommand : Prop :=
  ∀ (s : State) (w : Command) (rest : List HostInput) (i : Instr),
    s.phase = .idle → s.host = .command w :: rest → decodeCommand w = .ok i →
    step s = exec i { s with host := rest }

/-- R100: in a transaction phase a step runs the frame of the phase, unless a reset comes instead of the answer. -/
def Obligations.StepRunsFrame : Prop :=
  ∀ (s : State) (i : Instr), s.phase.isXfer = true → (∀ clk rest, s.transport.script ≠ .reset clk :: rest) →
    frameOf s = .ok i → step s = exec i s

/-- R17, R100: the one frame each transaction phase stands for. -/
def Obligations.FrameOfEachPhase : Prop :=
  ∀ s : State,
    (s.phase = .rsPoll → frameOf s = .ok (.fr .config)) ∧ (s.phase = .rsRead → frameOf s = .ok (.fr .conversion)) ∧
    (s.phase = .waiRead → frameOf s = .ok .fb) ∧
    (∀ m g r, s.phase = .rsWrite → s.cfgw = configWord s.params m g r → frameOf s = .ok (.cw m g r)) ∧
    (∀ r v, s.phase = .regWrite → s.txbuf = ⟨Reg.ptr r, hi8 v, lo8 v⟩ → frameOf s = .ok (.fw r v)) ∧
    (∀ r, s.phase = .regRead → s.txbuf.b0 = Reg.ptr r → frameOf s = .ok (.fr r))

/-- R17: in `IDLE`, with nothing presented, the block waits. That waiting for the host is a step that answers the same
state is the model's choice (log entry 13). -/
def Obligations.IdleWaits : Prop :=
  ∀ s : State, s.phase = .idle → s.host = [] → step s = .next s

/-- R31: while the transport gives no answer the block takes no other step: nothing changes but `TXBUF`, and it holds the
frame being sent; in the phases of INITIALIZE it does not change either. That waiting is a step is the model's choice
(log entry 13). -/
def Obligations.RequestBlocks : Prop :=
  ∀ s t : State, s.phase ≠ .idle → (∀ clk rest, s.transport.script ≠ .reset clk :: rest) →
    (∀ req, s.transport.ask req = none) → step s = .next t → t = { s with txbuf := frameSent s }

/-- R2, R40: a step makes at most one request, gives at most one response, and takes nothing back. -/
def Obligations.StepExtendsRecord : Prop :=
  ∀ s t : State, step s = .next t → ∃ new : List Event, t.trace = new ++ s.trace ∧
    requestCount new ≤ 1 ∧ responseCount new ≤ 1 ∧ new.length ≤ 2

/-- R145, R146: an operation gives its one response at the step that brings the block back to `IDLE`, and no step
between gives one. Resets, which abandon an operation without a response (R133), are left aside. -/
def Obligations.OneResponsePerOperation : Prop :=
  ∀ s t : State, step s = .next t →
    (s.phase = .idle → ∃ w rest, s.host = .command w :: rest) →
    (s.phase ≠ .idle → ∀ clk rest, s.transport.script ≠ .reset clk :: rest) →
    responseCount t.trace = responseCount s.trace + if t.phase = .idle then 1 else 0

/-- R11, R12: no step changes a `DEV_ADDR` of 0x48, and `CLK_HZ` changes only at a reset. That `CLK_HZ` is kept
after INITIALIZE, which R12 allows, is the model's choice (log entry 22), and so is that the open parameters of R4, which
R7 calls no state, are a field that no step writes (log entry 5). -/
def Obligations.ConstantsKept : Prop :=
  ∀ s t : State, step s = .next t →
    t.params = s.params ∧ (s.devAddr = 0x48 → t.devAddr = 0x48) ∧
    (t.clkHz = s.clkHz ∨ t.trace = .reset t.clkHz :: s.trace)

/-- R18, R124: the transitions of `LIFE`, and there are no others: by INITIALIZE out of `UNINIT`, by a reset out of any
state. -/
def Obligations.LifeTransitions : Prop :=
  ∀ s t : State, Inv s → step s = .next t →
    t.life = s.life ∨ (t.life = .uninit ∧ t.trace = .reset t.clkHz :: s.trace) ∨
    (s.life = .uninit ∧ s.phase = .initClock ∧ t.life = .init ∧ t.phase = .idle) ∨
    (s.life = .uninit ∧ s.phase.isInit = true ∧ t.life = .dead ∧ t.phase = .idle)

/-! ### Accepting an operation -/

/-- R99: outside `IDLE` no operation is accepted. That running one there answers the same state, and that no step takes
anything of what the host presents, which stays in the list, is the model's choice (log entry 14, and for a reset that
the host presents log entry 28). -/
def Obligations.BusyPortTakesNothing : Prop :=
  (∀ (s : State) (i : Instr), i.isCommand = true → s.phase ≠ .idle → exec i s = .next s) ∧
  (∀ s t : State, s.phase ≠ .idle → step s = .next t → t.host = s.host)

/-- R98: the lifecycle guard. A refused operation answers its error, makes no request and changes no register; an
operation the table lets proceed is not refused. -/
def Obligations.LifecycleGuard : Prop :=
  ∀ (s : State) (i : Instr), i.isCommand = true → WellFormed s.params i = true → s.phase = .idle →
    (s.life = .uninit → i ≠ .initialise →
      exec i s = .next { s with trace := .response ⟨0, 5, 0, none⟩ :: s.trace }) ∧
    (s.life = .init → i = .initialise →
      exec i s = .next { s with trace := .response ⟨0, 6, 0, none⟩ :: s.trace }) ∧
    (s.life = .dead → exec i s = .next { s with trace := .response ⟨0, 6, 0, none⟩ :: s.trace }) ∧
    ((s.life = .uninit ∧ i = .initialise ∨ s.life = .init ∧ i ≠ .initialise) →
      ∃ t, exec i s = .next t ∧ ∀ err terr, t.trace ≠ .response ⟨0, err, 0, terr⟩ :: s.trace)

/-- R90: INITIALIZE accepted. -/
def Obligations.InitialiseAccepted : Prop :=
  ∀ s : State, s.phase = .idle → s.life = .uninit → exec .initialise s = .next { s with phase := .initIdleTo }

/-- R91 steps 1 to 3: READ_SINGLE accepted. That `POLLS` is not written here is the pseudocode of R91, where the table
of R100 writes it at acceptance; R100 says that the pseudocode governs (log entry 15, DEDUCED). -/
def Obligations.ReadSingleAccepted : Prop :=
  ∀ (s : State) (ch : Channel), s.phase = .idle → s.life = .init →
    exec (.readSingle ch) s =
      .next { s with chan := ch.index, cfgw := cfgAssembleWord s.params ch s.gain s.rate, phase := .rsWrite }

/-- R92: SET_GAIN, its encoding and its effect. -/
def Obligations.SetGainResult : Prop :=
  (∀ g : Code, decodeCommand (commandWord 0x2 (g.setWidth 4) 0) = .ok (.setGain g)) ∧
  ∀ (s : State) (g : Code), s.phase = .idle → s.life = .init → gainLegal s.params g = true →
    exec (.setGain g) s = .next { s with gain := g, trace := .response ⟨1, 0, 0, none⟩ :: s.trace }

/-- R93: GET_GAIN, its encoding and its effect. -/
def Obligations.GetGainResult : Prop :=
  decodeCommand 0x300000 = .ok .getGain ∧
  ∀ s : State, s.phase = .idle → s.life = .init →
    exec .getGain s = .next { s with trace := .response ⟨1, 0, s.gain.setWidth 16, none⟩ :: s.trace }

/-- R94: SET_DATA_RATE, its encoding and its effect; every code is legal. -/
def Obligations.SetDataRateResult : Prop :=
  (∀ r : Code, decodeCommand (commandWord 0x4 (r.setWidth 4) 0) = .ok (.setDataRate r)) ∧
  ∀ (s : State) (r : Code), s.phase = .idle → s.life = .init →
    exec (.setDataRate r) s = .next { s with rate := r, trace := .response ⟨1, 0, 0, none⟩ :: s.trace }

/-- R95: GET_DATA_RATE, its encoding and its effect. -/
def Obligations.GetDataRateResult : Prop :=
  decodeCommand 0x500000 = .ok .getDataRate ∧
  ∀ s : State, s.phase = .idle → s.life = .init →
    exec .getDataRate s = .next { s with trace := .response ⟨1, 0, s.rate.setWidth 16, none⟩ :: s.trace }

/-- R97: CFG_ASSEMBLE at the command port answers the word READ_SINGLE would write, with no request. -/
def Obligations.CfgAssembleResult : Prop :=
  ∀ (s : State) (ch : Channel), s.phase = .idle → s.life = .init →
    exec (.cfgAssemble ch) s =
      .next { s with trace := .response ⟨1, 0, cfgAssembleWord s.params ch s.gain s.rate, none⟩ :: s.trace }

/-- R100: WRITE_REGISTER, READ_REGISTER and WHO_AM_I accepted: the frame to send stands in `TXBUF`. -/
def Obligations.FrameCommandsAccepted : Prop :=
  ∀ s : State, s.phase = .idle → s.life = .init →
    (∀ reg v, exec (.writeRegister reg v) s =
      .next { s with txbuf := ⟨Reg.ptr reg, hi8 v, lo8 v⟩, phase := .regWrite }) ∧
    (∀ reg, exec (.readRegister reg) s =
      .next { s with txbuf := { s.txbuf with b0 := Reg.ptr reg }, phase := .regRead }) ∧
    exec .whoAmI s = .next { s with txbuf := { s.txbuf with b0 := 0x75 }, phase := .waiRead }

/-- R45: a gain or a rate just set is in the configuration word of the very next READ_SINGLE, with no request between. -/
def Obligations.SettingsSeenByNextSample : Prop :=
  ∀ (s : State) (w w' : Command) (i : Instr) (ch : Channel) (rest : List HostInput),
    s.phase = .idle → s.life = .init → s.host = .command w :: .command w' :: rest → decodeCommand w = .ok i →
    decodeCommand w' = .ok (.readSingle ch) →
    (∀ g, i = .setGain g → gainLegal s.params g = true →
      ∃ t, steps 2 s = .next t ∧ t.cfgw = cfgAssembleWord s.params ch g s.rate ∧ t.phase = .rsWrite ∧
        requestCount t.trace = requestCount s.trace) ∧
    (∀ r, i = .setDataRate r →
      ∃ t, steps 2 s = .next t ∧ t.cfgw = cfgAssembleWord s.params ch s.gain r ∧ t.phase = .rsWrite ∧
        requestCount t.trace = requestCount s.trace)

/-! ### Frames -/

/-- R70: the write frame in `REG_WRITE` is one transaction whose two bytes are the result, or `Transport(e)` with `e`
unchanged. -/
def Obligations.WriteFrameResult : Prop :=
  ∀ (s : State) (reg : Reg) (v : Word) (t : Transport), s.phase = .regWrite →
    let req := Request.xfer s.devAddr [Reg.ptr reg, hi8 v, lo8 v] 2
    (∀ b0 b1, s.transport.ask req = some (.ok b0 b1, t) →
      exec (.fw reg v) s =
        .next { s with
          phase := .idle, txbuf := ⟨Reg.ptr reg, hi8 v, lo8 v⟩, rxbuf := ⟨b0, b1⟩, transport := t
          trace := .response ⟨1, 0, be16 b0 b1, none⟩ :: .request req (.ok [b0, b1]) :: s.trace }) ∧
    (∀ e, s.transport.ask req = some (.err e, t) →
      exec (.fw reg v) s =
        .next { s with
          phase := .idle, txbuf := ⟨Reg.ptr reg, hi8 v, lo8 v⟩, transport := t
          trace := .response ⟨0, 4, 0, some e⟩ :: .request req (.err e) :: s.trace })

/-- R71: the read frame, in `REG_READ` of any register and in `RS_READ` of the conversion register, is one transaction
whose two bytes are the result, or `Transport(e)` with `e` unchanged. -/
def Obligations.ReadFrameResult : Prop :=
  ∀ (s : State) (reg : Reg) (t : Transport), (s.phase = .regRead ∨ s.phase = .rsRead ∧ reg = .conversion) →
    let req := Request.xfer s.devAddr [Reg.ptr reg] 2
    (∀ b0 b1, s.transport.ask req = some (.ok b0 b1, t) →
      exec (.fr reg) s =
        .next { s with
          phase := .idle, txbuf := { s.txbuf with b0 := Reg.ptr reg }, rxbuf := ⟨b0, b1⟩, transport := t
          trace := .response ⟨1, 0, be16 b0 b1, none⟩ :: .request req (.ok [b0, b1]) :: s.trace }) ∧
    (∀ e, s.transport.ask req = some (.err e, t) →
      exec (.fr reg) s =
        .next { s with
          phase := .idle, txbuf := { s.txbuf with b0 := Reg.ptr reg }, transport := t
          trace := .response ⟨0, 4, 0, some e⟩ :: .request req (.err e) :: s.trace })

/-- R96: the byte-read frame in `WAI_READ`: one byte, zero-extended at the response port, or `Transport(e)`. -/
def Obligations.ByteFrameResult : Prop :=
  ∀ (s : State) (t : Transport), s.phase = .waiRead →
    let req := Request.xfer s.devAddr [0x75] 1
    (∀ b0 b1, s.transport.ask req = some (.ok b0 b1, t) →
      exec .fb s =
        .next { s with
          phase := .idle, txbuf := { s.txbuf with b0 := 0x75 }, rxbuf := { s.rxbuf with b0 := b0 }, transport := t
          trace := .response ⟨1, 0, b0.setWidth 16, none⟩ :: .request req (.ok [b0]) :: s.trace }) ∧
    (∀ e, s.transport.ask req = some (.err e, t) →
      exec .fb s =
        .next { s with
          phase := .idle, txbuf := { s.txbuf with b0 := 0x75 }, transport := t
          trace := .response ⟨0, 4, 0, some e⟩ :: .request req (.err e) :: s.trace })

/-- R91 step 4: the configuration write of READ_SINGLE, as the configuration word CW of any codes and as the write frame
of any payload. The word read back is discarded, `POLLS` starts at 0 if it exists (here and not at acceptance: log
entry 15), and polling follows. -/
def Obligations.ConfigurationWrite : Prop :=
  ∀ (s : State) (i : Instr) (w : Word) (t : Transport), s.phase = .rsWrite →
    (i = .fw .config w ∨ ∃ m g r, i = .cw m g r ∧ w = configWord s.params m g r) →
    let req := Request.xfer s.devAddr [0x01, hi8 w, lo8 w] 2
    (∀ b0 b1, s.transport.ask req = some (.ok b0 b1, t) →
      exec i s =
        .next { s with
          phase := .rsPoll, txbuf := ⟨0x01, hi8 w, lo8 w⟩, rxbuf := ⟨b0, b1⟩, transport := t
          polls := if s.params.maxPolls = none then s.polls else 0
          trace := .request req (.ok [b0, b1]) :: s.trace }) ∧
    (∀ e, s.transport.ask req = some (.err e, t) →
      exec i s =
        .next { s with
          phase := .idle, txbuf := ⟨0x01, hi8 w, lo8 w⟩, transport := t
          trace := .response ⟨0, 4, 0, some e⟩ :: .request req (.err e) :: s.trace })

/-- R91 step 5, R104: the poll. A set bit 15 ends the loop; a clear one is counted if there is a cap and polls again, or
raises `PollLimit` at the poll where the cap is reached, with the word read in `RXBUF` there too (log entry 15). -/
def Obligations.PollResult : Prop :=
  ∀ (s : State) (b0 b1 : Byte) (t : Transport), s.phase = .rsPoll →
    let req := Request.xfer s.devAddr [0x01] 2
    s.transport.ask req = some (.ok b0 b1, t) →
    let r : State :=
      { s with
        txbuf := { s.txbuf with b0 := 0x01 }, rxbuf := ⟨b0, b1⟩, transport := t
        trace := .request req (.ok [b0, b1]) :: s.trace }
    (b0.getLsbD 7 = true → exec (.fr .config) s = .next { r with phase := .rsRead }) ∧
    (b0.getLsbD 7 = false → s.params.maxPolls = none → exec (.fr .config) s = .next r) ∧
    (∀ n, b0.getLsbD 7 = false → s.params.maxPolls = some n → s.polls + 1 ≠ n →
      exec (.fr .config) s = .next { r with polls := s.polls + 1 }) ∧
    (∀ n, b0.getLsbD 7 = false → s.params.maxPolls = some n → s.polls + 1 = n →
      exec (.fr .config) s =
        .next { r with polls := n, phase := .idle, trace := .response ⟨0, 8, 0, none⟩ :: r.trace })

/-- R117: a poll that answers `Err(e)` raises `Transport(e)`, whatever the count of polls. -/
def Obligations.PollFault : Prop :=
  ∀ (s : State) (e : TransportError) (t : Transport), s.phase = .rsPoll →
    let req := Request.xfer s.devAddr [0x01] 2
    s.transport.ask req = some (.err e, t) →
    exec (.fr .config) s =
      .next { s with
        phase := .idle, txbuf := { s.txbuf with b0 := 0x01 }, transport := t
        trace := .response ⟨0, 4, 0, some e⟩ :: .request req (.err e) :: s.trace }

/-- R22: of the word a poll reads only bit 15 matters: after two answers that agree in it the block is the same but for
`RXBUF`, and so is everything it gave and asked for: one and the same list of events stands before the poll in both
records, and the polls differ in the bytes received alone. -/
def Obligations.OnlyStatusBitMatters : Prop :=
  ∀ (s : State) (b0 b1 c0 c1 : Byte) (rest : List Reply) (u v : State), s.phase = .rsPoll →
    b0.getLsbD 7 = c0.getLsbD 7 →
    step { s with transport := { s.transport with script := .ok b0 b1 :: rest } } = .next u →
    step { s with transport := { s.transport with script := .ok c0 c1 :: rest } } = .next v →
    v = { u with rxbuf := v.rxbuf, trace := v.trace } ∧ u.rxbuf = ⟨b0, b1⟩ ∧ v.rxbuf = ⟨c0, c1⟩ ∧
    ∃ after : List Event,
      u.trace = after ++ .request (.xfer s.devAddr [0x01] 2) (.ok [b0, b1]) :: s.trace ∧
      v.trace = after ++ .request (.xfer s.devAddr [0x01] 2) (.ok [c0, c1]) :: s.trace

/-- The model's choice (log entry 9), from R17: a frame run in a phase that is not its own sends nothing. A write frame's
own phases are `REG_WRITE`, and `RS_WRITE` for the configuration register; a read frame's are `REG_READ`, and `RS_POLL`
for the configuration and `RS_READ` for the conversion register. -/
def Obligations.FrameOfAnotherPhase : Prop :=
  ∀ s : State,
    (∀ reg v, s.phase ≠ .regWrite → ¬(s.phase = .rsWrite ∧ reg = .config) → exec (.fw reg v) s = .next s) ∧
    (∀ reg, s.phase ≠ .regRead → ¬(s.phase = .rsPoll ∧ reg = .config) → ¬(s.phase = .rsRead ∧ reg = .conversion) →
      exec (.fr reg) s = .next s) ∧
    (s.phase ≠ .waiRead → exec .fb s = .next s) ∧ (s.phase ≠ .rsWrite → ∀ m g r, exec (.cw m g r) s = .next s)

/-! ### Errors -/

/-- R118, R119: raising an error answers its code and its payload with `val = 0`, ends in `IDLE`, and changes no other
register but `LIFE`, which becomes `DEAD` on an initialization fault only. That `GAIN`, `RATE` and the other registers
keep their bits in `DEAD`, where R119 and R123 say that they hold no value, is the model's choice (log entry 22). -/
def Obligations.RaisingAnError : Prop :=
  ∀ (s : State) (e : TransportError),
    s.raise (.busIdleTimeout e) =
      { s with life := .dead, phase := .idle, trace := .response ⟨0, 1, 0, some e⟩ :: s.trace } ∧
    s.raise (.pinLowTimeout e) =
      { s with life := .dead, phase := .idle, trace := .response ⟨0, 2, 0, some e⟩ :: s.trace } ∧
    s.raise (.clockSpeed e) =
      { s with life := .dead, phase := .idle, trace := .response ⟨0, 3, 0, some e⟩ :: s.trace } ∧
    s.raise (.transport e) = { s with phase := .idle, trace := .response ⟨0, 4, 0, some e⟩ :: s.trace } ∧
    s.raise .notInitialized = { s with phase := .idle, trace := .response ⟨0, 5, 0, none⟩ :: s.trace } ∧
    s.raise .handleConsumed = { s with phase := .idle, trace := .response ⟨0, 6, 0, none⟩ :: s.trace } ∧
    s.raise .illegalCommand = { s with phase := .idle, trace := .response ⟨0, 7, 0, none⟩ :: s.trace } ∧
    s.raise .pollLimit = { s with phase := .idle, trace := .response ⟨0, 8, 0, none⟩ :: s.trace }

/-! ### INITIALIZE, whole -/

/-- The record of the first `n` of INITIALIZE's three setter requests, each answered `Ok`, newest first. -/
def setterEvents (clk n : Nat) : List Event :=
  ([.request (.setBusIdleTimeout 200) (.ok []), .request (.setPinLowTimeout 1000) (.ok []),
    .request (.setClockSpeed clk) (.ok [])].take n).reverse

/-- R90: from `UNINIT`, INITIALIZE makes its three setter requests in order and stops at the first that fails, with the
error that names it and `LIFE = DEAD`; after all three `LIFE = INIT` and the response is `Ok(0)`. That the setting of a
failed setter is not known any more is the model's choice (log entry 16), and so is that `GAIN`, `RATE` and the other
registers keep their bits in `DEAD`, where R111, R119 and R123 say that they hold no value (log entry 22). -/
def Obligations.InitialiseRun : Prop :=
  ∀ (s : State) (host : List HostInput) (more : List Reply) (e : TransportError) (x0 x1 y0 y1 z0 z1 : Byte),
    s.phase = .idle → s.life = .uninit → s.host = .command 0x000000 :: host →
    (s.transport.script = .ok x0 x1 :: .ok y0 y1 :: .ok z0 z1 :: more →
      steps 4 s =
        .next { s with
          host := host, life := .init, gain := s.params.gainInit, rate := s.params.rateInit
          transport := ⟨more, s.transport.fixture, some 200, some 1000, some s.clkHz⟩
          trace := .response ⟨1, 0, 0, none⟩ :: setterEvents s.clkHz 3 ++ s.trace }) ∧
    (s.transport.script = .err e :: more →
      steps 2 s =
        .next { s with
          host := host, life := .dead, transport := { s.transport with script := more, busIdleUs := none }
          trace := .response ⟨0, 1, 0, some e⟩ :: .request (.setBusIdleTimeout 200) (.err e) :: s.trace }) ∧
    (s.transport.script = .ok x0 x1 :: .err e :: more →
      steps 3 s =
        .next { s with
          host := host, life := .dead
          transport := { s.transport with script := more, busIdleUs := some 200, pinLowUs := none }
          trace := .response ⟨0, 2, 0, some e⟩ :: .request (.setPinLowTimeout 1000) (.err e) ::
            setterEvents s.clkHz 1 ++ s.trace }) ∧
    (s.transport.script = .ok x0 x1 :: .ok y0 y1 :: .err e :: more →
      steps 4 s =
        .next { s with
          host := host, life := .dead
          transport := ⟨more, s.transport.fixture, some 200, some 1000, none⟩
          trace := .response ⟨0, 3, 0, some e⟩ :: .request (.setClockSpeed s.clkHz) (.err e) ::
            setterEvents s.clkHz 2 ++ s.trace })

/-! ### READ_SINGLE, whole -/

/-- A READ_SINGLE about to be accepted, the transport about to answer from its script. -/
structure SampleStarts (s : State) (ch : Channel) (host : List HostInput) : Prop where
  idle : s.phase = .idle
  ready : s.life = .init
  presented : ∃ w, s.host = .command w :: host ∧ decodeCommand w = .ok (.readSingle ch)

/-- Polls that read bit 15 clear. -/
def allBusy (polls : List (Byte × Byte)) : Prop := ∀ b ∈ polls, b.1.getLsbD 7 = false

/-- The script that answers these polls. -/
def pollReplies (polls : List (Byte × Byte)) : List Reply := polls.map fun b => .ok b.1 b.2

/-- The record of these polls, newest first. -/
def pollEvents (addr : BitVec 7) (polls : List (Byte × Byte)) : List Event :=
  (polls.map fun b => Event.request (.xfer addr [0x01] 2) (.ok [b.1, b.2])).reverse

/-- The record of the configuration write. -/
def writeEvent (addr : BitVec 7) (w : Word) (res : Result) : Event :=
  .request (.xfer addr [0x01, hi8 w, lo8 w] 2) res

/-- R91, R101: a READ_SINGLE that sees `N - 1` busy polls and then one that is not makes one configuration write, `N`
polls and one conversion read, and answers the conversion register as it is read. -/
def Obligations.ReadSingleSucceeds : Prop :=
  ∀ (s : State) (ch : Channel) (host : List HostInput) (busy : List (Byte × Byte)) (more : List Reply)
    (d0 d1 r0 r1 c0 c1 : Byte),
    SampleStarts s ch host → allBusy busy → r0.getLsbD 7 = true →
    (∀ n, s.params.maxPolls = some n → busy.length < n) →
    s.transport.script = .ok d0 d1 :: pollReplies busy ++ .ok r0 r1 :: .ok c0 c1 :: more →
    let w := cfgAssembleWord s.params ch s.gain s.rate
    let polls := busy ++ [(r0, r1)]
    steps (polls.length + 3) s =
      .next { s with
        host := host, chan := ch.index, cfgw := w, txbuf := ⟨0x00, hi8 w, lo8 w⟩, rxbuf := ⟨c0, c1⟩
        polls := if s.params.maxPolls = none then s.polls else busy.length
        transport := { s.transport with script := more }
        trace := .response ⟨1, 0, be16 c0 c1, none⟩ :: .request (.xfer s.devAddr [0x00] 2) (.ok [c0, c1]) ::
          pollEvents s.devAddr polls ++ writeEvent s.devAddr w (.ok [d0, d1]) :: s.trace }

/-- R112, R119: a READ_SINGLE whose write, a poll of which, or whose conversion read answers `Err(e)` ends there with
`Transport(e)`; `LIFE`, `GAIN` and `RATE` keep their values. -/
def Obligations.ReadSingleFaults : Prop :=
  ∀ (s : State) (ch : Channel) (host : List HostInput) (busy : List (Byte × Byte)) (more : List Reply)
    (d0 d1 r0 r1 : Byte) (e : TransportError),
    SampleStarts s ch host → allBusy busy → r0.getLsbD 7 = true →
    (∀ n, s.params.maxPolls = some n → busy.length < n) →
    let w := cfgAssembleWord s.params ch s.gain s.rate
    let wrote := writeEvent s.devAddr w (.ok [d0, d1]) :: s.trace
    let failed : Event := .response ⟨0, 4, 0, some e⟩
    (s.transport.script = .err e :: more →
      ∃ t, steps 2 s = .next t ∧ t.trace = failed :: writeEvent s.devAddr w (.err e) :: s.trace ∧
        t.phase = .idle ∧ t.life = s.life ∧ t.gain = s.gain ∧ t.rate = s.rate ∧ t.host = host) ∧
    (s.transport.script = .ok d0 d1 :: pollReplies busy ++ .err e :: more →
      ∃ t, steps (busy.length + 3) s = .next t ∧
        t.trace = failed :: .request (.xfer s.devAddr [0x01] 2) (.err e) :: pollEvents s.devAddr busy ++ wrote ∧
        t.phase = .idle ∧ t.life = s.life ∧ t.gain = s.gain ∧ t.rate = s.rate ∧ t.host = host) ∧
    (s.transport.script = .ok d0 d1 :: pollReplies busy ++ .ok r0 r1 :: .err e :: more →
      ∃ t, steps (busy.length + 4) s = .next t ∧
        t.trace = failed :: .request (.xfer s.devAddr [0x00] 2) (.err e) ::
          pollEvents s.devAddr (busy ++ [(r0, r1)]) ++ wrote ∧
        t.phase = .idle ∧ t.life = s.life ∧ t.gain = s.gain ∧ t.rate = s.rate ∧ t.host = host)

/-- R114: with `MAX_POLLS = n`, `n` busy polls in a row end READ_SINGLE with `PollLimit`, and no conversion read is
made. -/
def Obligations.ReadSinglePollLimit : Prop :=
  ∀ (s : State) (ch : Channel) (host : List HostInput) (busy : List (Byte × Byte)) (more : List Reply) (d0 d1 : Byte),
    SampleStarts s ch host → allBusy busy → busy ≠ [] → s.params.maxPolls = some busy.length →
    s.transport.script = .ok d0 d1 :: pollReplies busy ++ more →
    let w := cfgAssembleWord s.params ch s.gain s.rate
    ∃ t, steps (busy.length + 2) s = .next t ∧
      t.trace = .response ⟨0, 8, 0, none⟩ :: pollEvents s.devAddr busy ++
        writeEvent s.devAddr w (.ok [d0, d1]) :: s.trace ∧
      t.phase = .idle ∧ t.polls = busy.length ∧ t.life = s.life ∧ t.gain = s.gain ∧ t.rate = s.rate ∧ t.host = host

/-- R137: with `MAX_POLLS = none`, READ_SINGLE does not end while every poll reads bit 15 clear: however many there are,
the block is in `RS_POLL` and has given no response. -/
def Obligations.ReadSingleHangs : Prop :=
  ∀ (s : State) (ch : Channel) (host : List HostInput) (busy : List (Byte × Byte)) (more : List Reply) (d0 d1 : Byte),
    SampleStarts s ch host → allBusy busy → s.params.maxPolls = none →
    s.transport.script = .ok d0 d1 :: pollReplies busy ++ more →
    ∃ t, steps (busy.length + 2) s = .next t ∧ t.phase = .rsPoll ∧
      responseCount t.trace = responseCount s.trace ∧ xferCount t.trace = xferCount s.trace + busy.length + 1

/-- R101: against `ScriptedDevice(k, c, id)` a READ_SINGLE makes `k + 1` polls, `k + 3` transactions, and answers `c`. -/
def Obligations.ScriptedDeviceSample : Prop :=
  ∀ (s : State) (ch : Channel) (host : List HostInput) (k : Nat) (c : Word) (ident : Byte) (cfg : Word) (b : Nat),
    SampleStarts s ch host → s.params.maxPolls = none → s.transport.script = [] →
    s.transport.fixture = .scripted k c ident cfg b →
    ∃ t, steps (k + 4) s = .next t ∧ t.phase = .idle ∧ xferCount t.trace = xferCount s.trace + k + 3 ∧
      t.trace.head? = some (.response ⟨1, 0, c, none⟩) ∧ responseCount t.trace = responseCount s.trace + 1

/-! ### The reference transport's memory -/

/-- R46: in a canonical memory a write is read back at its pointer, and every other pointer reads as before. -/
def Obligations.EchoReadAfterWrite : Prop :=
  ∀ (m : Memory) (p q : Nat) (v : Word), m.wf = true →
    Memory.read (Memory.write m p v) q = if q = p then v else Memory.read m q

/-- A frame that writes the word `v` to the register, run in a phase that sends it (R17, R51, R54). -/
def WritesWord (s : State) (i : Instr) (reg : Reg) (v : Word) : Prop :=
  (s.phase = .regWrite ∧ i = .fw reg v) ∨
  (s.phase = .rsWrite ∧ reg = .config ∧ (i = .fw .config v ∨ ∃ m g r, i = .cw m g r ∧ v = configWord s.params m g r))

/-- A frame that reads, run in a phase that sends it (R17, R52, R53). -/
def Reads (s : State) (i : Instr) : Prop :=
  (s.phase = .regRead ∧ ∃ reg, i = .fr reg) ∨ (s.phase = .rsPoll ∧ i = .fr .config) ∨
  (s.phase = .rsRead ∧ i = .fr .conversion) ∨ (s.phase = .waiRead ∧ i = .fb)

/-- R46, R70, R71, R91, R96: against the echoing transport a write frame or a configuration word changes what is stored
at its pointer and nowhere else, and a read frame or the byte-read frame stores nothing, in every phase that sends it. -/
def Obligations.EchoStoresOnlyWritten : Prop :=
  ∀ (s : State) (m : Memory), m.wf = true → s.transport.script = [] → s.transport.fixture = .echo m →
    (∀ i reg v, WritesWord s i reg v → ∃ t m', exec i s = .next t ∧ t.transport.fixture = .echo m' ∧
      Memory.read m' (Reg.ptr reg).toNat = v ∧
      ∀ q, q ≠ (Reg.ptr reg).toNat → Memory.read m' q = Memory.read m q) ∧
    (∀ i, Reads s i → ∃ t, exec i s = .next t ∧ t.transport.fixture = .echo m)

/-- R75: WRITE_REGISTER(reg, V) followed by READ_REGISTER(reg) answers `Ok(V)` against the echoing transport. -/
def Obligations.EchoRoundTrip : Prop :=
  ∀ (s : State) (m : Memory) (reg : Reg) (v : Word) (w w' : Command) (rest : List HostInput),
    s.phase = .idle → s.life = .init → m.wf = true → s.transport.script = [] → s.transport.fixture = .echo m →
    s.host = .command w :: .command w' :: rest → decodeCommand w = .ok (.writeRegister reg v) →
    decodeCommand w' = .ok (.readRegister reg) →
    ∃ t, steps 4 s = .next t ∧ t.trace.head? = some (.response ⟨1, 0, v, none⟩) ∧ t.phase = .idle

/-! ### Reset -/

/-- R131: what a reset leaves in the registers whose value it gives; the default clock speed is 400000; `GAIN` and
`RATE` cannot be read after it. -/
def Obligations.ResetValues : Prop :=
  (State.reset.life = .uninit ∧ State.reset.phase = .idle ∧ State.reset.devAddr = 0x48 ∧ State.reset.clkHz = 400000) ∧
  (∀ (s : State) (clk : Option Nat) (rest : List HostInput), s.phase = .idle → s.host = .reset clk :: rest →
    ∃ t, step s = .next t ∧ t.life = .uninit ∧ t.phase = .idle ∧ t.devAddr = 0x48 ∧ t.clkHz = clk.getD 400000 ∧
      exec .getGain t = .next { t with trace := .response ⟨0, 5, 0, none⟩ :: t.trace } ∧
      exec .getDataRate t = .next { t with trace := .response ⟨0, 5, 0, none⟩ :: t.trace })

/-- R130, R132: a reset touches neither the transport's settings nor the device, makes no request, and leaves the block
to be initialized again. That it keeps the parameters and what the host is still to present, and stands in the record,
is the model's choice (log entry 28). -/
def Obligations.ResetKeepsEnvironment : Prop :=
  ∀ (s : State) (clk : Option Nat) (rest : List HostInput), s.phase = .idle → s.host = .reset clk :: rest →
    ∃ t, step s = .next t ∧ t.transport = s.transport ∧ t.params = s.params ∧ t.host = rest ∧ t.life = .uninit ∧
      t.trace = .reset (clk.getD 400000) :: s.trace

/-- R133: a reset while an operation runs abandons it without a response. That no fixture stands for the device any more,
and that the settings are known to be as before only where no setter was in flight, is the model's choice (log entries
11 and 16); so is that what the host is still to present is kept (log entry 28). -/
def Obligations.ResetWhileBusy : Prop :=
  ∀ (s : State) (clk : Option Nat) (rest : List Reply), s.phase ≠ .idle → s.transport.script = .reset clk :: rest →
    ∃ t, step s = .next t ∧ t.life = .uninit ∧ t.phase = .idle ∧ t.devAddr = 0x48 ∧ t.clkHz = clk.getD 400000 ∧
      t.trace = .reset (clk.getD 400000) :: s.trace ∧ t.host = s.host ∧
      t.transport.script = rest ∧ t.transport.fixture = .absent ∧
      (s.phase.isXfer = true → t.transport = { s.transport with script := rest, fixture := .absent })

/-! ### Safety -/

/-- The invariant holds after reset, whatever well-formed parameters the block was built with, whatever the host is to
present and however the transport is to answer. -/
def Obligations.ResetHasInvariant : Prop :=
  ∀ (p : Params) (host : List HostInput) (t : Transport), p.wf = true → t.fixture.wf = true →
    Inv { State.reset with params := p, host := host, transport := t }

/-- R13, R18, R26, R34, R123: every step keeps the invariant. -/
def Obligations.StepKeepsInvariant : Prop :=
  ∀ s t : State, Inv s → step s = .next t → Inv t

/-- From a state with the invariant a step never stops. -/
def Obligations.InvariantNeverStops : Prop :=
  ∀ s : State, Inv s → ∃ t, step s = .next t

/-- R123: no `T.Xfer` is ever issued unless all three setters have answered `Ok` since reset: over every run from reset,
whatever the host presents and the transport answers. It holds of every transaction recorded, and, since the record lists
answered requests only (log entries 11 and 17), of every state about to make or waiting in one, answered or not. -/
def Obligations.NoTransactionBeforeSetup : Prop :=
  ∀ (p : Params) (host : List HostInput) (tr : Transport) (n : Nat) (t : State), p.wf = true → tr.fixture.wf = true →
    steps n { State.reset with params := p, host := host, transport := tr } = .next t →
    (t.phase.isXfer = true → setupLevel t.trace = 3 ∧ t.devAddr = 0x48) ∧
    ∀ newer addr out m res older, t.trace = newer ++ .request (.xfer addr out m) res :: older →
      setupLevel older = 3 ∧ addr = 0x48
end

