-- ==== Sys2Proof/Laws/Bits.lean ====
section
/-!
SUPPORT. Operand assembly and the fields of the words, bit by bit.
-/

namespace Sys2Proof

/-- The pointer byte of a register names it (R34). -/
@[simp] theorem Reg.ofPtr_ptr (r : Reg) : Reg.ofPtr r.ptr = some r := by cases r <;> decide

/-- A register is its selector's (R58). -/
@[simp] theorem Reg.ofIndex_index (r : Reg) : Reg.ofIndex r.index = r := by cases r <;> decide

/-- A channel is its index's (R58). -/
@[simp] theorem Channel.ofIndex_index (c : Channel) : Channel.ofIndex c.index = c := by cases c <;> decide

/-- Every two-bit selector is its register's. -/
@[simp] theorem Reg.index_ofIndex (b : BitVec 2) : (Reg.ofIndex b).index = b := by
  revert b; decide

/-- Every two-bit index is its channel's. -/
@[simp] theorem Channel.index_ofIndex (b : BitVec 2) : (Channel.ofIndex b).index = b := by
  revert b; decide

/-- A pointer byte that names a register is that register's. -/
theorem Reg.ptr_of_ofPtr {p : Byte} {r : Reg} (h : Reg.ofPtr p = some r) : r.ptr = p := by
  revert h; revert p; cases r <;> decide

/-- The gain `INITIALIZE` gives is a legal code. -/
theorem gainLegal_gainInit (p : Params) : gainLegal p p.gainInit = true := by
  simp [gainLegal, Params.gainInit]

/-- The mux pattern of a channel is a single-ended one. -/
theorem muxLegal_mux (p : Params) (ch : Channel) : muxLegal p (p.mux ch) = true := by
  cases ch <;> simp [muxLegal, Params.mux]

end Sys2Proof
end

