-- ==== Sys2Proof/Laws/Memory.lean ====
section
/-!
SUPPORT. The memory of an echoing transport: every operation keeps the canonical form.
-/

namespace Sys2Proof.Machine

/-- The canonical form above a bound holds above every lower one. -/
theorem Memory.wfFrom_mono {m : Memory} {lo lo' : Nat} (h : lo' ≤ lo) (hm : Memory.wfFrom lo m = true) :
    Memory.wfFrom lo' m = true := by
  cases m with
  | nil => rfl
  | cons e rest =>
    obtain ⟨a, v⟩ := e
    simp only [Memory.wfFrom, Bool.and_eq_true, decide_eq_true_eq] at hm ⊢
    exact ⟨⟨h.trans hm.1.1, hm.1.2⟩, hm.2⟩

/-- An entry at the front keeps the form when it lies between the bound and the rest. -/
theorem Memory.wfFrom_cons {m : Memory} {lo p : Nat} {v : Word} (hp : lo ≤ p) (hm : Memory.wfFrom (p + 1) m = true) :
    Memory.wfFrom lo (Memory.cons p v m) = true := by
  unfold Memory.cons
  split
  · exact Memory.wfFrom_mono (by omega) hm
  · rename_i hv
    simp [Memory.wfFrom, hp, hv, hm]

/-- A write at or above the bound keeps the form. -/
theorem Memory.wfFrom_write {m : Memory} {lo p : Nat} {v : Word} (hp : lo ≤ p) (hm : Memory.wfFrom lo m = true) :
    Memory.wfFrom lo (Memory.write m p v) = true := by
  induction m generalizing lo with
  | nil => exact Memory.wfFrom_cons hp rfl
  | cons e rest ih =>
    obtain ⟨a, w⟩ := e
    simp only [Memory.wfFrom, Bool.and_eq_true, decide_eq_true_eq] at hm
    obtain ⟨⟨hlo, hw⟩, hrest⟩ := hm
    unfold Memory.write
    split
    · rename_i hlt
      exact Memory.wfFrom_cons hp (by simp [Memory.wfFrom, hw, hrest]; omega)
    · split
      · rename_i hap
        subst hap
        exact Memory.wfFrom_cons hp hrest
      · rename_i h1 h2
        simp only [Memory.wfFrom, Bool.and_eq_true, decide_eq_true_eq]
        exact ⟨⟨hlo, hw⟩, ih (by omega) hrest⟩

/-- A write keeps the canonical form. -/
theorem Memory.wf_write {m : Memory} {p : Nat} {v : Word} (hm : m.wf = true) : (Memory.write m p v).wf = true :=
  Memory.wfFrom_write (Nat.zero_le p) hm

/-- The empty memory is canonical: reset lists nothing. -/
theorem Memory.wf_nil : Memory.wf [] = true := rfl

/-- What an echoing transport keeps stays canonical, whatever it is asked. -/
theorem echoAnswer_wf {mem mem' : Memory} {req : Request} {a : Answer} (hm : mem.wf = true)
    (h : echoAnswer mem req = some (a, mem')) : mem'.wf = true := by
  unfold echoAnswer at h
  split at h <;> simp only [Option.some.injEq, Prod.mk.injEq, reduceCtorEq] at h
  all_goals obtain ⟨-, rfl⟩ := h
  all_goals first | exact hm | exact Memory.wf_write hm

end Sys2Proof.Machine
end

