-- ==== Sys2Proof/Laws/State.lean ====
section
/-!
SUPPORT. What each update of the state does to each field: one lemma per field per update, all true by `rfl`.
-/

namespace Sys2Proof.Machine

variable (s : State)

/-! ### `State.moveTo` -/

@[simp] theorem State.moveTo_life (p : Phase) : (s.moveTo p).life = s.life := rfl
@[simp] theorem State.moveTo_devAddr (p : Phase) : (s.moveTo p).devAddr = s.devAddr := rfl
@[simp] theorem State.moveTo_clkHz (p : Phase) : (s.moveTo p).clkHz = s.clkHz := rfl
@[simp] theorem State.moveTo_gain (p : Phase) : (s.moveTo p).gain = s.gain := rfl
@[simp] theorem State.moveTo_rate (p : Phase) : (s.moveTo p).rate = s.rate := rfl
@[simp] theorem State.moveTo_phase (p : Phase) : (s.moveTo p).phase = p := rfl
@[simp] theorem State.moveTo_chan (p : Phase) : (s.moveTo p).chan = s.chan := rfl
@[simp] theorem State.moveTo_cfgw (p : Phase) : (s.moveTo p).cfgw = s.cfgw := rfl
@[simp] theorem State.moveTo_txbuf (p : Phase) : (s.moveTo p).txbuf = s.txbuf := rfl
@[simp] theorem State.moveTo_rxbuf (p : Phase) : (s.moveTo p).rxbuf = s.rxbuf := rfl
@[simp] theorem State.moveTo_polls (p : Phase) : (s.moveTo p).polls = s.polls := rfl
@[simp] theorem State.moveTo_params (p : Phase) : (s.moveTo p).params = s.params := rfl
@[simp] theorem State.moveTo_host (p : Phase) : (s.moveTo p).host = s.host := rfl
@[simp] theorem State.moveTo_transport (p : Phase) : (s.moveTo p).transport = s.transport := rfl
@[simp] theorem State.moveTo_trace (p : Phase) : (s.moveTo p).trace = s.trace := rfl

/-! ### `State.setTx` -/

@[simp] theorem State.setTx_life (b0 b1 b2 : Byte) : (s.setTx b0 b1 b2).life = s.life := rfl
@[simp] theorem State.setTx_devAddr (b0 b1 b2 : Byte) : (s.setTx b0 b1 b2).devAddr = s.devAddr := rfl
@[simp] theorem State.setTx_clkHz (b0 b1 b2 : Byte) : (s.setTx b0 b1 b2).clkHz = s.clkHz := rfl
@[simp] theorem State.setTx_gain (b0 b1 b2 : Byte) : (s.setTx b0 b1 b2).gain = s.gain := rfl
@[simp] theorem State.setTx_rate (b0 b1 b2 : Byte) : (s.setTx b0 b1 b2).rate = s.rate := rfl
@[simp] theorem State.setTx_phase (b0 b1 b2 : Byte) : (s.setTx b0 b1 b2).phase = s.phase := rfl
@[simp] theorem State.setTx_chan (b0 b1 b2 : Byte) : (s.setTx b0 b1 b2).chan = s.chan := rfl
@[simp] theorem State.setTx_cfgw (b0 b1 b2 : Byte) : (s.setTx b0 b1 b2).cfgw = s.cfgw := rfl
@[simp] theorem State.setTx_txbuf (b0 b1 b2 : Byte) : (s.setTx b0 b1 b2).txbuf = ⟨b0, b1, b2⟩ := rfl
@[simp] theorem State.setTx_rxbuf (b0 b1 b2 : Byte) : (s.setTx b0 b1 b2).rxbuf = s.rxbuf := rfl
@[simp] theorem State.setTx_polls (b0 b1 b2 : Byte) : (s.setTx b0 b1 b2).polls = s.polls := rfl
@[simp] theorem State.setTx_params (b0 b1 b2 : Byte) : (s.setTx b0 b1 b2).params = s.params := rfl
@[simp] theorem State.setTx_host (b0 b1 b2 : Byte) : (s.setTx b0 b1 b2).host = s.host := rfl
@[simp] theorem State.setTx_transport (b0 b1 b2 : Byte) : (s.setTx b0 b1 b2).transport = s.transport := rfl
@[simp] theorem State.setTx_trace (b0 b1 b2 : Byte) : (s.setTx b0 b1 b2).trace = s.trace := rfl

/-! ### `State.setTx0` -/

@[simp] theorem State.setTx0_life (b : Byte) : (s.setTx0 b).life = s.life := rfl
@[simp] theorem State.setTx0_devAddr (b : Byte) : (s.setTx0 b).devAddr = s.devAddr := rfl
@[simp] theorem State.setTx0_clkHz (b : Byte) : (s.setTx0 b).clkHz = s.clkHz := rfl
@[simp] theorem State.setTx0_gain (b : Byte) : (s.setTx0 b).gain = s.gain := rfl
@[simp] theorem State.setTx0_rate (b : Byte) : (s.setTx0 b).rate = s.rate := rfl
@[simp] theorem State.setTx0_phase (b : Byte) : (s.setTx0 b).phase = s.phase := rfl
@[simp] theorem State.setTx0_chan (b : Byte) : (s.setTx0 b).chan = s.chan := rfl
@[simp] theorem State.setTx0_cfgw (b : Byte) : (s.setTx0 b).cfgw = s.cfgw := rfl
@[simp] theorem State.setTx0_txbuf (b : Byte) : (s.setTx0 b).txbuf = { s.txbuf with b0 := b } := rfl
@[simp] theorem State.setTx0_rxbuf (b : Byte) : (s.setTx0 b).rxbuf = s.rxbuf := rfl
@[simp] theorem State.setTx0_polls (b : Byte) : (s.setTx0 b).polls = s.polls := rfl
@[simp] theorem State.setTx0_params (b : Byte) : (s.setTx0 b).params = s.params := rfl
@[simp] theorem State.setTx0_host (b : Byte) : (s.setTx0 b).host = s.host := rfl
@[simp] theorem State.setTx0_transport (b : Byte) : (s.setTx0 b).transport = s.transport := rfl
@[simp] theorem State.setTx0_trace (b : Byte) : (s.setTx0 b).trace = s.trace := rfl

/-! ### `State.setRx` -/

@[simp] theorem State.setRx_life (b0 b1 : Byte) : (s.setRx b0 b1).life = s.life := rfl
@[simp] theorem State.setRx_devAddr (b0 b1 : Byte) : (s.setRx b0 b1).devAddr = s.devAddr := rfl
@[simp] theorem State.setRx_clkHz (b0 b1 : Byte) : (s.setRx b0 b1).clkHz = s.clkHz := rfl
@[simp] theorem State.setRx_gain (b0 b1 : Byte) : (s.setRx b0 b1).gain = s.gain := rfl
@[simp] theorem State.setRx_rate (b0 b1 : Byte) : (s.setRx b0 b1).rate = s.rate := rfl
@[simp] theorem State.setRx_phase (b0 b1 : Byte) : (s.setRx b0 b1).phase = s.phase := rfl
@[simp] theorem State.setRx_chan (b0 b1 : Byte) : (s.setRx b0 b1).chan = s.chan := rfl
@[simp] theorem State.setRx_cfgw (b0 b1 : Byte) : (s.setRx b0 b1).cfgw = s.cfgw := rfl
@[simp] theorem State.setRx_txbuf (b0 b1 : Byte) : (s.setRx b0 b1).txbuf = s.txbuf := rfl
@[simp] theorem State.setRx_rxbuf (b0 b1 : Byte) : (s.setRx b0 b1).rxbuf = ⟨b0, b1⟩ := rfl
@[simp] theorem State.setRx_polls (b0 b1 : Byte) : (s.setRx b0 b1).polls = s.polls := rfl
@[simp] theorem State.setRx_params (b0 b1 : Byte) : (s.setRx b0 b1).params = s.params := rfl
@[simp] theorem State.setRx_host (b0 b1 : Byte) : (s.setRx b0 b1).host = s.host := rfl
@[simp] theorem State.setRx_transport (b0 b1 : Byte) : (s.setRx b0 b1).transport = s.transport := rfl
@[simp] theorem State.setRx_trace (b0 b1 : Byte) : (s.setRx b0 b1).trace = s.trace := rfl

/-! ### `State.setRx0` -/

@[simp] theorem State.setRx0_life (b : Byte) : (s.setRx0 b).life = s.life := rfl
@[simp] theorem State.setRx0_devAddr (b : Byte) : (s.setRx0 b).devAddr = s.devAddr := rfl
@[simp] theorem State.setRx0_clkHz (b : Byte) : (s.setRx0 b).clkHz = s.clkHz := rfl
@[simp] theorem State.setRx0_gain (b : Byte) : (s.setRx0 b).gain = s.gain := rfl
@[simp] theorem State.setRx0_rate (b : Byte) : (s.setRx0 b).rate = s.rate := rfl
@[simp] theorem State.setRx0_phase (b : Byte) : (s.setRx0 b).phase = s.phase := rfl
@[simp] theorem State.setRx0_chan (b : Byte) : (s.setRx0 b).chan = s.chan := rfl
@[simp] theorem State.setRx0_cfgw (b : Byte) : (s.setRx0 b).cfgw = s.cfgw := rfl
@[simp] theorem State.setRx0_txbuf (b : Byte) : (s.setRx0 b).txbuf = s.txbuf := rfl
@[simp] theorem State.setRx0_rxbuf (b : Byte) : (s.setRx0 b).rxbuf = { s.rxbuf with b0 := b } := rfl
@[simp] theorem State.setRx0_polls (b : Byte) : (s.setRx0 b).polls = s.polls := rfl
@[simp] theorem State.setRx0_params (b : Byte) : (s.setRx0 b).params = s.params := rfl
@[simp] theorem State.setRx0_host (b : Byte) : (s.setRx0 b).host = s.host := rfl
@[simp] theorem State.setRx0_transport (b : Byte) : (s.setRx0 b).transport = s.transport := rfl
@[simp] theorem State.setRx0_trace (b : Byte) : (s.setRx0 b).trace = s.trace := rfl

/-! ### `State.finish` -/

@[simp] theorem State.finish_life (v : Word) : (s.finish v).life = s.life := rfl
@[simp] theorem State.finish_devAddr (v : Word) : (s.finish v).devAddr = s.devAddr := rfl
@[simp] theorem State.finish_clkHz (v : Word) : (s.finish v).clkHz = s.clkHz := rfl
@[simp] theorem State.finish_gain (v : Word) : (s.finish v).gain = s.gain := rfl
@[simp] theorem State.finish_rate (v : Word) : (s.finish v).rate = s.rate := rfl
@[simp] theorem State.finish_phase (v : Word) : (s.finish v).phase = .idle := rfl
@[simp] theorem State.finish_chan (v : Word) : (s.finish v).chan = s.chan := rfl
@[simp] theorem State.finish_cfgw (v : Word) : (s.finish v).cfgw = s.cfgw := rfl
@[simp] theorem State.finish_txbuf (v : Word) : (s.finish v).txbuf = s.txbuf := rfl
@[simp] theorem State.finish_rxbuf (v : Word) : (s.finish v).rxbuf = s.rxbuf := rfl
@[simp] theorem State.finish_polls (v : Word) : (s.finish v).polls = s.polls := rfl
@[simp] theorem State.finish_params (v : Word) : (s.finish v).params = s.params := rfl
@[simp] theorem State.finish_host (v : Word) : (s.finish v).host = s.host := rfl
@[simp] theorem State.finish_transport (v : Word) : (s.finish v).transport = s.transport := rfl
@[simp] theorem State.finish_trace (v : Word) : (s.finish v).trace = .response (.success v) :: s.trace := rfl

/-! ### `State.raise` -/

@[simp] theorem State.raise_life (e : ErrorKind) : (s.raise e).life = e.lifeAfter s.life := rfl
@[simp] theorem State.raise_devAddr (e : ErrorKind) : (s.raise e).devAddr = s.devAddr := rfl
@[simp] theorem State.raise_clkHz (e : ErrorKind) : (s.raise e).clkHz = s.clkHz := rfl
@[simp] theorem State.raise_gain (e : ErrorKind) : (s.raise e).gain = s.gain := rfl
@[simp] theorem State.raise_rate (e : ErrorKind) : (s.raise e).rate = s.rate := rfl
@[simp] theorem State.raise_phase (e : ErrorKind) : (s.raise e).phase = .idle := rfl
@[simp] theorem State.raise_chan (e : ErrorKind) : (s.raise e).chan = s.chan := rfl
@[simp] theorem State.raise_cfgw (e : ErrorKind) : (s.raise e).cfgw = s.cfgw := rfl
@[simp] theorem State.raise_txbuf (e : ErrorKind) : (s.raise e).txbuf = s.txbuf := rfl
@[simp] theorem State.raise_rxbuf (e : ErrorKind) : (s.raise e).rxbuf = s.rxbuf := rfl
@[simp] theorem State.raise_polls (e : ErrorKind) : (s.raise e).polls = s.polls := rfl
@[simp] theorem State.raise_params (e : ErrorKind) : (s.raise e).params = s.params := rfl
@[simp] theorem State.raise_host (e : ErrorKind) : (s.raise e).host = s.host := rfl
@[simp] theorem State.raise_transport (e : ErrorKind) : (s.raise e).transport = s.transport := rfl
@[simp] theorem State.raise_trace (e : ErrorKind) : (s.raise e).trace = .response (.failure e) :: s.trace := rfl

/-! ### `State.answered` -/

@[simp] theorem State.answered_life (req : Request) (a : Answer) (t : Transport) : (s.answered req a t).life = s.life := rfl
@[simp] theorem State.answered_devAddr (req : Request) (a : Answer) (t : Transport) : (s.answered req a t).devAddr = s.devAddr := rfl
@[simp] theorem State.answered_clkHz (req : Request) (a : Answer) (t : Transport) : (s.answered req a t).clkHz = s.clkHz := rfl
@[simp] theorem State.answered_gain (req : Request) (a : Answer) (t : Transport) : (s.answered req a t).gain = s.gain := rfl
@[simp] theorem State.answered_rate (req : Request) (a : Answer) (t : Transport) : (s.answered req a t).rate = s.rate := rfl
@[simp] theorem State.answered_phase (req : Request) (a : Answer) (t : Transport) : (s.answered req a t).phase = s.phase := rfl
@[simp] theorem State.answered_chan (req : Request) (a : Answer) (t : Transport) : (s.answered req a t).chan = s.chan := rfl
@[simp] theorem State.answered_cfgw (req : Request) (a : Answer) (t : Transport) : (s.answered req a t).cfgw = s.cfgw := rfl
@[simp] theorem State.answered_txbuf (req : Request) (a : Answer) (t : Transport) : (s.answered req a t).txbuf = s.txbuf := rfl
@[simp] theorem State.answered_rxbuf (req : Request) (a : Answer) (t : Transport) : (s.answered req a t).rxbuf = s.rxbuf := rfl
@[simp] theorem State.answered_polls (req : Request) (a : Answer) (t : Transport) : (s.answered req a t).polls = s.polls := rfl
@[simp] theorem State.answered_params (req : Request) (a : Answer) (t : Transport) : (s.answered req a t).params = s.params := rfl
@[simp] theorem State.answered_host (req : Request) (a : Answer) (t : Transport) : (s.answered req a t).host = s.host := rfl
@[simp] theorem State.answered_transport (req : Request) (a : Answer) (t : Transport) : (s.answered req a t).transport = t := rfl
@[simp] theorem State.answered_trace (req : Request) (a : Answer) (t : Transport) : (s.answered req a t).trace = .request req (a.result req.len) :: s.trace := rfl

/-! ### Resets -/

@[simp] theorem State.resetBlock_life (clk : Option Nat) : (s.resetBlock clk).life = .uninit := rfl
@[simp] theorem State.resetBlock_devAddr (clk : Option Nat) : (s.resetBlock clk).devAddr = Config.devAddr := rfl
@[simp] theorem State.resetBlock_clkHz (clk : Option Nat) : (s.resetBlock clk).clkHz = clk.getD Config.clkHzDefault := rfl
@[simp] theorem State.resetBlock_gain (clk : Option Nat) : (s.resetBlock clk).gain = 0 := rfl
@[simp] theorem State.resetBlock_rate (clk : Option Nat) : (s.resetBlock clk).rate = 0 := rfl
@[simp] theorem State.resetBlock_phase (clk : Option Nat) : (s.resetBlock clk).phase = .idle := rfl
@[simp] theorem State.resetBlock_chan (clk : Option Nat) : (s.resetBlock clk).chan = 0 := rfl
@[simp] theorem State.resetBlock_cfgw (clk : Option Nat) : (s.resetBlock clk).cfgw = 0 := rfl
@[simp] theorem State.resetBlock_txbuf (clk : Option Nat) : (s.resetBlock clk).txbuf = ⟨0, 0, 0⟩ := rfl
@[simp] theorem State.resetBlock_rxbuf (clk : Option Nat) : (s.resetBlock clk).rxbuf = ⟨0, 0⟩ := rfl
@[simp] theorem State.resetBlock_polls (clk : Option Nat) : (s.resetBlock clk).polls = 0 := rfl
@[simp] theorem State.resetBlock_params (clk : Option Nat) : (s.resetBlock clk).params = s.params := rfl
@[simp] theorem State.resetBlock_host (clk : Option Nat) : (s.resetBlock clk).host = s.host := rfl
@[simp] theorem State.resetBlock_transport (clk : Option Nat) : (s.resetBlock clk).transport = s.transport := rfl
@[simp] theorem State.resetBlock_trace (clk : Option Nat) : (s.resetBlock clk).trace = .reset (clk.getD Config.clkHzDefault) :: s.trace := rfl

/-- An abandoned operation is a reset of the block, with the request in flight given up. -/
theorem State.abandon_eq (clk : Option Nat) (rest : List Reply) :
    s.abandon clk rest =
      { s with transport := s.transport.abandon s.phase rest }.resetBlock clk := rfl

end Sys2Proof.Machine
end

