-- ==== Sys2Proof/Laws/Ops.lean ====
section
/-!
SUPPORT. One lemma for each shared operation: all that it can do.
-/

namespace Sys2Proof.Machine

/-- Where an answer to a request comes from, and what the transport is afterwards. -/
theorem Transport.ask_cases {t t' : Transport} {req : Request} {a : Answer} (h : t.ask req = some (a, t')) :
    (∃ b0 b1 rest, t.script = .ok b0 b1 :: rest ∧ a = .ok b0 b1 ∧
      t' = ({ t with script := rest } : Transport).applySetting req) ∨
    (∃ e rest, t.script = .err e :: rest ∧ a = .err e ∧
      t' = ({ t with script := rest } : Transport).forgetSetting req) ∨
    (∃ rest f, (t.script = .pass :: rest ∨ t.script = [] ∧ rest = []) ∧ t.fixture.answer req = some (a, f) ∧
      t' = ({ t with script := rest, fixture := f } : Transport).settle req a) := by
  have fromFixture : ∀ rest, t.askFixture rest req = some (a, t') →
      ∃ f, t.fixture.answer req = some (a, f) ∧
        t' = ({ t with script := rest, fixture := f } : Transport).settle req a := by
    intro rest hf
    unfold Transport.askFixture at hf
    split at hf
    · rename_i a' f ha
      simp only [Option.some.injEq, Prod.mk.injEq] at hf
      obtain ⟨rfl, rfl⟩ := hf
      exact ⟨f, ha, rfl⟩
    · cases hf
  unfold Transport.ask at h
  split at h
  · rename_i b0 b1 rest hs
    simp only [Option.some.injEq, Prod.mk.injEq] at h
    exact .inl ⟨b0, b1, rest, hs, h.1.symm, h.2.symm⟩
  · rename_i e rest hs
    simp only [Option.some.injEq, Prod.mk.injEq] at h
    exact .inr (.inl ⟨e, rest, hs, h.1.symm, h.2.symm⟩)
  · rename_i rest hs
    obtain ⟨f, hf, ht⟩ := fromFixture rest h
    exact .inr (.inr ⟨rest, f, .inl hs, hf, ht⟩)
  · cases h
  · rename_i hs
    obtain ⟨f, hf, ht⟩ := fromFixture [] h
    exact .inr (.inr ⟨[], f, .inr ⟨hs, rfl⟩, hf, ht⟩)

/-- The settings of the transport touch nothing else of it. -/
@[simp] theorem Transport.applySetting_fixture (t : Transport) (req : Request) :
    (t.applySetting req).fixture = t.fixture := by cases req <;> rfl

@[simp] theorem Transport.applySetting_script (t : Transport) (req : Request) :
    (t.applySetting req).script = t.script := by cases req <;> rfl

@[simp] theorem Transport.forgetSetting_fixture (t : Transport) (req : Request) :
    (t.forgetSetting req).fixture = t.fixture := by cases req <;> rfl

@[simp] theorem Transport.forgetSetting_script (t : Transport) (req : Request) :
    (t.forgetSetting req).script = t.script := by cases req <;> rfl

@[simp] theorem Transport.settle_fixture (t : Transport) (req : Request) (a : Answer) :
    (t.settle req a).fixture = t.fixture := by cases a <;> simp [Transport.settle]

@[simp] theorem Transport.settle_script (t : Transport) (req : Request) (a : Answer) :
    (t.settle req a).script = t.script := by cases a <;> simp [Transport.settle]

/-- A transaction is no setter. -/
@[simp] theorem Transport.applySetting_xfer (t : Transport) (a : BitVec 7) (out : List Byte) (m : Nat) :
    t.applySetting (.xfer a out m) = t := rfl

@[simp] theorem Transport.forgetSetting_xfer (t : Transport) (a : BitVec 7) (out : List Byte) (m : Nat) :
    t.forgetSetting (.xfer a out m) = t := rfl

/-- An abandoned request leaves the rest of the script and no fixture. -/
@[simp] theorem Transport.abandon_script (t : Transport) (p : Phase) (rest : List Reply) :
    (t.abandon p rest).script = rest := by cases p <;> rfl

@[simp] theorem Transport.abandon_fixture (t : Transport) (p : Phase) (rest : List Reply) :
    (t.abandon p rest).fixture = .absent := by cases p <;> rfl

/-- What one request comes to: it waits, or it is answered and recorded. -/
theorem transact_cases (req : Request) (s : State) :
    (s.transport.ask req = none ∧ transact req s = .blocked s) ∨
    (∃ e t, s.transport.ask req = some (.err e, t) ∧ transact req s = .failed e (s.answered req (.err e) t)) ∨
    (∃ b0 b1 t, s.transport.ask req = some (.ok b0 b1, t) ∧
      transact req s = .got b0 b1 (s.answered req (.ok b0 b1) t)) := by
  unfold transact
  split
  · rename_i h; exact .inl ⟨h, rfl⟩
  · rename_i e t h; exact .inr (.inl ⟨e, t, h, rfl⟩)
  · rename_i b0 b1 t h; exact .inr (.inr ⟨b0, b1, t, h, rfl⟩)

/-- What acceptance can do: not take the operation, refuse it, or run it. -/
theorem accept_cases (i : Instr) (s : State) (run : State → State) :
    (s.phase ≠ .idle ∧ accept i s run = .next s) ∨
    (s.phase = .idle ∧ WellFormed s.params i = false ∧ accept i s run = .next (s.raise .illegalCommand)) ∨
    (∃ e, s.phase = .idle ∧ WellFormed s.params i = true ∧ lifeGuard s.life i = some e ∧
      accept i s run = .next (s.raise e)) ∨
    (s.phase = .idle ∧ WellFormed s.params i = true ∧ lifeGuard s.life i = none ∧ accept i s run = .next (run s)) := by
  unfold accept
  by_cases hp : s.phase = .idle
  · cases hw : WellFormed s.params i
    · simp [hp]
    · cases hg : lifeGuard s.life i <;> simp [hp]
  · simp [hp]

/-- An operation that is accepted runs. -/
theorem accept_run {i : Instr} {s : State} {run : State → State} (hp : s.phase = .idle)
    (hw : WellFormed s.params i = true) (hg : lifeGuard s.life i = none) : accept i s run = .next (run s) := by
  simp [accept, hp, hw, hg]

/-- How a transaction ends: never in a fault or a refusal. -/
theorem Txn.complete_cases (r : Txn) (k : Byte → Byte → State → State) :
    (∃ s, r = .blocked s ∧ r.complete k = .next s) ∨
    (∃ e s, r = .failed e s ∧ r.complete k = .next (s.raise (.transport e))) ∨
    (∃ b0 b1 s, r = .got b0 b1 s ∧ r.complete k = .next (k b0 b1 s)) := by
  cases r <;> simp [Txn.complete]

/-- The RPU's write, by what the transport answers. -/
theorem rpuWrite_got {reg : Reg} {v : Word} {s : State} {b0 b1 : Byte} {t : Transport}
    (h : s.transport.ask (.xfer s.devAddr [reg.ptr, hi8 v, lo8 v] 2) = some (.ok b0 b1, t)) :
    rpuWrite reg v s = .got b0 b1 (((s.setTx reg.ptr (hi8 v) (lo8 v)).answered
      (.xfer s.devAddr [reg.ptr, hi8 v, lo8 v] 2) (.ok b0 b1) t).setRx b0 b1) := by
  simp [rpuWrite, transact, h, Txn.intoRx]

theorem rpuWrite_failed {reg : Reg} {v : Word} {s : State} {e : TransportError} {t : Transport}
    (h : s.transport.ask (.xfer s.devAddr [reg.ptr, hi8 v, lo8 v] 2) = some (.err e, t)) :
    rpuWrite reg v s = .failed e ((s.setTx reg.ptr (hi8 v) (lo8 v)).answered
      (.xfer s.devAddr [reg.ptr, hi8 v, lo8 v] 2) (.err e) t) := by
  simp [rpuWrite, transact, h, Txn.intoRx]

/-- The RPU's read, by what the transport answers. -/
theorem rpuRead_got {reg : Reg} {s : State} {b0 b1 : Byte} {t : Transport}
    (h : s.transport.ask (.xfer s.devAddr [reg.ptr] 2) = some (.ok b0 b1, t)) :
    rpuRead reg s = .got b0 b1 (((s.setTx0 reg.ptr).answered (.xfer s.devAddr [reg.ptr] 2) (.ok b0 b1) t).setRx b0 b1) := by
  simp [rpuRead, transact, h, Txn.intoRx]

theorem rpuRead_failed {reg : Reg} {s : State} {e : TransportError} {t : Transport}
    (h : s.transport.ask (.xfer s.devAddr [reg.ptr] 2) = some (.err e, t)) :
    rpuRead reg s = .failed e ((s.setTx0 reg.ptr).answered (.xfer s.devAddr [reg.ptr] 2) (.err e) t) := by
  simp [rpuRead, transact, h, Txn.intoRx]

/-- The byte read of WHO_AM_I, by what the transport answers. -/
theorem rpuReadByte_got {s : State} {b0 b1 : Byte} {t : Transport}
    (h : s.transport.ask (.xfer s.devAddr [Config.whoamiReg] 1) = some (.ok b0 b1, t)) :
    rpuReadByte s = .got b0 b1 (((s.setTx0 Config.whoamiReg).answered
      (.xfer s.devAddr [Config.whoamiReg] 1) (.ok b0 b1) t).setRx0 b0) := by
  simp [rpuReadByte, transact, h, Txn.intoRx0]

theorem rpuReadByte_failed {s : State} {e : TransportError} {t : Transport}
    (h : s.transport.ask (.xfer s.devAddr [Config.whoamiReg] 1) = some (.err e, t)) :
    rpuReadByte s = .failed e ((s.setTx0 Config.whoamiReg).answered
      (.xfer s.devAddr [Config.whoamiReg] 1) (.err e) t) := by
  simp [rpuReadByte, transact, h, Txn.intoRx0]

/-- What a fixture keeps in memory stays canonical. -/
theorem Transport.ask_fixture_wf {t t' : Transport} {req : Request} {a : Answer}
    (hw : (∀ mem, t.fixture = .echo mem → mem.wf = true)) (h : t.ask req = some (a, t')) :
    ∀ mem, t'.fixture = .echo mem → mem.wf = true := by
  obtain ⟨b0, b1, rest, -, -, rfl⟩ | ⟨e, rest, -, -, rfl⟩ | ⟨rest, f, -, hf, rfl⟩ := Transport.ask_cases h
  · simpa using hw
  · simpa using hw
  · simp only [Transport.settle_fixture]
    intro mem hmem
    subst hmem
    unfold Fixture.answer at hf
    split at hf
    · cases hf
    · rename_i m hm
      split at hf
      · rename_i a' mem' ha
        simp only [Option.some.injEq, Prod.mk.injEq, Fixture.echo.injEq] at hf
        obtain ⟨-, rfl⟩ := hf
        exact echoAnswer_wf (hw m hm) ha
      · cases hf
    · split at hf <;> simp at hf

end Sys2Proof.Machine
end

