-- ==== Sys2Proof/Laws/PerInstr.lean ====
section
/-!
SUPPORT. One statement for every instruction: its encoding has the fixed bits of its row of spec/opcode_table.json.
-/

namespace Sys2Proof.Laws.RowBits

/-- The width in bits, the `match` and the `mask` of an instruction's row. The row CW is written with the default
codes. -/
def row : Instr → Nat × Nat × Nat
  | .initialise => (24, 0x000000, 0xFFFFFF)
  | .readSingle _ => (24, 0x100000, 0xFCFFFF)
  | .setGain _ => (24, 0x200000, 0xF8FFFF)
  | .getGain => (24, 0x300000, 0xFFFFFF)
  | .setDataRate _ => (24, 0x400000, 0xF8FFFF)
  | .getDataRate => (24, 0x500000, 0xFFFFFF)
  | .whoAmI => (24, 0x600000, 0xFFFFFF)
  | .cfgAssemble _ => (24, 0x700000, 0xFCFFFF)
  | .writeRegister _ _ => (24, 0x800000, 0xFC0000)
  | .readRegister _ => (24, 0x900000, 0xFCFFFF)
  | .fw _ _ => (24, 0x000000, 0xFC0000)
  | .fr _ => (8, 0x00, 0xFC)
  | .fb => (8, 0x75, 0xFF)
  | .cw _ _ _ => (16, 0x8103, 0x811F)

/-- The encoding of an instruction, as one number, has the `match` of its row under the row's `mask`. -/
def Statement (i : Instr) : Prop :=
  BitVec.ofNat (row i).1 (encode Params.default i).bits &&& BitVec.ofNat (row i).1 (row i).2.2 =
    BitVec.ofNat (row i).1 (row i).2.1

theorem initialise : Statement .initialise := by unfold Statement; decide

theorem readSingle (ch : Channel) : Statement (.readSingle ch) := by unfold Statement; cases ch <;> decide

theorem setGain (g : Code) : Statement (.setGain g) := by unfold Statement; revert g; decide

theorem getGain : Statement .getGain := by unfold Statement; decide

theorem setDataRate (r : Code) : Statement (.setDataRate r) := by unfold Statement; revert r; decide

theorem getDataRate : Statement .getDataRate := by unfold Statement; decide

theorem whoAmI : Statement .whoAmI := by unfold Statement; decide

theorem cfgAssemble (ch : Channel) : Statement (.cfgAssemble ch) := by unfold Statement; cases ch <;> decide

/-- The bits of a 16-bit field under a mask that clears it. -/
theorem append_and_mask (a : BitVec 8) (v : Word) : (a ++ v) &&& 0xFC0000#24 = (a &&& 0xFC#8) ++ 0#16 := by
  rw [show (0xFC0000#24) = (0xFC#8 ++ 0#16 : BitVec (8 + 16)) from by decide, BitVec.and_append, BitVec.and_zero]

theorem writeRegister (reg : Reg) (v : Word) : Statement (.writeRegister reg v) := by
  have h := append_and_mask (0x8#4 ++ reg.index.setWidth 4) v
  change BitVec.ofNat 24 (encode Params.default (.writeRegister reg v)).bits &&& 0xFC0000#24 = 0x800000#24
  cases reg <;> simpa [encode, Encoded.bits, commandWord, Reg.index] using h

theorem readRegister (reg : Reg) : Statement (.readRegister reg) := by unfold Statement; cases reg <;> decide

theorem fw (reg : Reg) (v : Word) : Statement (.fw reg v) := by
  have h := append_and_mask reg.ptr (hi8 v ++ lo8 v)
  have e : reg.ptr ++ hi8 v ++ lo8 v = (reg.ptr ++ (hi8 v ++ lo8 v) : BitVec 24) := by
    simpa using BitVec.append_assoc (x₁ := reg.ptr) (x₂ := hi8 v) (x₃ := lo8 v)
  rw [← e] at h
  change BitVec.ofNat 24 (encode Params.default (.fw reg v)).bits &&& 0xFC0000#24 = 0x000000#24
  cases reg <;> simpa [encode, Encoded.bits, Reg.ptr, Reg.index] using h

theorem fr (reg : Reg) : Statement (.fr reg) := by unfold Statement; cases reg <;> decide

theorem fb : Statement .fb := by unfold Statement; decide

theorem cw (mux gain rate : Code) : Statement (.cw mux gain rate) := by unfold Statement; revert mux gain rate; decide

end Sys2Proof.Laws.RowBits
end

