-- ==== Sys2Proof/Laws/Step.lean ====
section
/-!
SUPPORT. What a step can do, said once: no instruction's meaning stops, an accepted operation, a request of INITIALIZE,
a transaction, a reset. Later proofs cite these and unfold neither `step` nor a meaning.
-/

namespace Sys2Proof.Machine

/-! ### Meanings answer a next state -/

theorem accept_next (i : Instr) (s : State) (run : State → State) : ∃ t, accept i s run = .next t := by
  rcases accept_cases i s run with h | h | ⟨e, h⟩ | h
  · exact ⟨_, h.2⟩
  · exact ⟨_, h.2.2⟩
  · exact ⟨_, h.2.2.2⟩
  · exact ⟨_, h.2.2.2⟩

theorem Txn.complete_next (r : Txn) (k : Byte → Byte → State → State) : ∃ t, r.complete k = .next t := by
  cases r <;> exact ⟨_, rfl⟩

theorem whenIssued_next {b : Bool} {s : State} {r : Host.Outcome State Fault Refusal} (h : ∃ t, r = .next t) :
    ∃ t, whenIssued b s r = .next t := by
  cases b
  · exact ⟨s, rfl⟩
  · exact h

/-! ### Phases -/

/-- Outside `IDLE` a phase makes a request of INITIALIZE or a transaction. -/
theorem Phase.init_or_xfer {p : Phase} (h : p ≠ .idle) : p.isInit = true ∨ p.isXfer = true := by
  cases p <;> simp_all [Phase.isInit, Phase.isXfer]

theorem Phase.not_idle_of_init {p : Phase} (h : p.isInit = true) : p ≠ .idle := by
  rintro rfl
  cases h

theorem Phase.not_idle_of_xfer {p : Phase} (h : p.isXfer = true) : p ≠ .idle := by
  rintro rfl
  cases h

/-- Either a reset comes instead of the next answer or it does not. -/
theorem reset_or_not (s : State) :
    (∃ clk rest, s.transport.script = .reset clk :: rest) ∨
      ∀ clk rest, s.transport.script ≠ .reset clk :: rest := by
  cases h : s.transport.script with
  | nil => right; simp
  | cons a r => cases a <;> simp

/-- Outside `IDLE`, unless a reset comes, the turn is the request of the phase. -/
theorem fetch_busy {s : State} (hp : s.phase ≠ .idle) (hs : ∀ clk rest, s.transport.script ≠ .reset clk :: rest) :
    fetch s = fetchRequest s := by
  unfold fetch
  rw [if_neg hp]
  split
  · rename_i clk rest h
    exact absurd h (hs clk rest)
  · rfl

/-- A reset outside `IDLE` abandons the operation. -/
theorem step_abandon {s : State} {clk : Option Nat} {rest : List Reply} (hp : s.phase ≠ .idle)
    (hs : s.transport.script = .reset clk :: rest) : step s = .next (s.abandon clk rest) := by
  simp only [step, fetch, hp, if_false, hs]

/-! ### Taking an operation -/

/-- What an accepted operation of the command port leaves. -/
def ran : Instr → State → State
  | .initialise, s => s.moveTo .initIdleTo
  | .readSingle ch, s =>
    { s with chan := ch.index, cfgw := cfgAssembleWord s.params ch s.gain s.rate }.moveTo .rsWrite
  | .setGain g, s => { s with gain := g }.finish 0
  | .getGain, s => s.finish (zextCode s.gain)
  | .setDataRate r, s => { s with rate := r }.finish 0
  | .getDataRate, s => s.finish (zextCode s.rate)
  | .whoAmI, s => (s.setTx0 Config.whoamiReg).moveTo .waiRead
  | .cfgAssemble ch, s => s.finish (cfgAssembleWord s.params ch s.gain s.rate)
  | .writeRegister reg v, s => (s.setTx reg.ptr (hi8 v) (lo8 v)).moveTo .regWrite
  | .readRegister reg, s => (s.setTx0 reg.ptr).moveTo .regRead
  | .fw _ _, s => s
  | .fr _, s => s
  | .fb, s => s
  | .cw _ _ _, s => s

/-- Every operation of the command port is its acceptance. -/
theorem exec_command {i : Instr} (hc : i.isCommand = true) (s : State) : exec i s = accept i s (ran i) := by
  cases i <;> first | rfl | cases hc

/-- No instruction's meaning ends in a fault or a refusal. -/
theorem exec_next (i : Instr) (s : State) : ∃ t, exec i s = .next t := by
  by_cases hc : i.isCommand = true
  · exact exec_command hc s ▸ accept_next i s (ran i)
  · cases i <;> first | exact absurd rfl hc | exact whenIssued_next (Txn.complete_next _ _)

theorem decodeCommand_isCommand {w : Command} {i : Instr} (h : decodeCommand w = .ok i) : i.isCommand = true := by
  unfold decodeCommand ifZero at h
  split at h <;> (try split at h) <;> (try cases h) <;> rfl

/-- What an error raised before any request can be. -/
def early (e : ErrorKind) : Prop := e = .illegalCommand ∨ e = .notInitialized ∨ e = .handleConsumed

theorem early_of_guard {l : Life} {i : Instr} {e : ErrorKind} (h : lifeGuard l i = some e) : early e := by
  unfold lifeGuard at h
  split at h <;> simp at h <;> simp [early, ← h]

/-- In `IDLE` a step waits, resets the block, refuses a command word, or runs an operation the guard lets proceed. -/
theorem idle_cases {s t : State} (hp : s.phase = .idle) (h : step s = .next t) :
    (s.host = [] ∧ t = s) ∨
    (∃ clk rest, s.host = .reset clk :: rest ∧ t = { s with host := rest }.resetBlock clk) ∨
    (∃ w rest, s.host = .command w :: rest ∧
      ((∃ e, early e ∧ t = { s with host := rest }.raise e) ∨
        ∃ i, decodeCommand w = .ok i ∧ i.isCommand = true ∧ WellFormed s.params i = true ∧
          lifeGuard s.life i = none ∧ t = ran i { s with host := rest })) := by
  unfold step fetch at h
  simp only [hp, if_true] at h
  unfold fetchCommand at h
  cases hh : s.host with
  | nil =>
    simp only [hh, Host.Outcome.next.injEq] at h
    exact .inl ⟨rfl, h.symm⟩
  | cons a rest =>
    cases a with
    | reset clk =>
      simp only [hh, Host.Outcome.next.injEq] at h
      exact .inr (.inl ⟨clk, rest, rfl, h.symm⟩)
    | command w =>
      refine .inr (.inr ⟨w, rest, rfl, ?_⟩)
      simp only [hh] at h
      cases hd : decodeCommand w with
      | error e =>
        simp only [hd, Host.Outcome.next.injEq] at h
        exact .inl ⟨_, .inl rfl, h.symm⟩
      | ok i =>
        have hc := decodeCommand_isCommand hd
        simp only [hd, exec_command hc] at h
        rcases accept_cases i { s with host := rest } (ran i) with
          ⟨h1, -⟩ | ⟨-, -, h3⟩ | ⟨e, -, -, h3, h4⟩ | ⟨-, h2, h3, h4⟩
        · exact absurd hp h1
        · exact .inl ⟨_, .inl rfl, Host.Outcome.next.inj (h.symm.trans h3)⟩
        · exact .inl ⟨e, early_of_guard h3, Host.Outcome.next.inj (h.symm.trans h4)⟩
        · exact .inr ⟨i, rfl, hc, h2, h3, Host.Outcome.next.inj (h.symm.trans h4)⟩

/-! ### A request of INITIALIZE -/

/-- The request of a phase of INITIALIZE, its fault, and what its `Ok` leads to. -/
def setterOf (s : State) : Request × (TransportError → ErrorKind) × (State → State) :=
  match s.phase with
  | .initIdleTo =>
    (.setBusIdleTimeout Config.busIdleTimeoutUs, .busIdleTimeout, fun s => s.moveTo .initPinLow)
  | .initPinLow => (.setPinLowTimeout Config.pinLowTimeoutUs, .pinLowTimeout, fun s => s.moveTo .initClock)
  | _ => (.setClockSpeed s.clkHz, .clockSpeed, initDone)

/-- A step in a phase of INITIALIZE makes its setter request. -/
theorem step_init {s : State} (hi : s.phase.isInit = true)
    (hs : ∀ clk rest, s.transport.script ≠ .reset clk :: rest) :
    step s = .next (setterStep (setterOf s).1 (setterOf s).2.1 (setterOf s).2.2 s) := by
  unfold step
  rw [fetch_busy (Phase.not_idle_of_init hi) hs]
  unfold fetchRequest setterOf
  cases hp : s.phase <;> simp [hp, Phase.isInit] at hi <;> rfl

/-- It waits, raises the setter's fault, or goes on. -/
theorem init_cases {s t : State} (hi : s.phase.isInit = true)
    (hs : ∀ clk rest, s.transport.script ≠ .reset clk :: rest) (h : step s = .next t) :
    (s.transport.ask (setterOf s).1 = none ∧ t = s) ∨
    (∃ e tr, s.transport.ask (setterOf s).1 = some (.err e, tr) ∧
      t = (s.answered (setterOf s).1 (.err e) tr).raise ((setterOf s).2.1 e)) ∨
    (∃ b0 b1 tr, s.transport.ask (setterOf s).1 = some (.ok b0 b1, tr) ∧
      t = (setterOf s).2.2 (s.answered (setterOf s).1 (.ok b0 b1) tr)) := by
  rw [step_init hi hs, Host.Outcome.next.injEq] at h
  unfold setterStep at h
  rcases transact_cases (setterOf s).1 s with ⟨ha, hb⟩ | ⟨e, tr, ha, hb⟩ | ⟨b0, b1, tr, ha, hb⟩ <;> rw [hb] at h
  · exact .inl ⟨ha, h.symm⟩
  · exact .inr (.inl ⟨e, tr, ha, h.symm⟩)
  · exact .inr (.inr ⟨b0, b1, tr, ha, h.symm⟩)

/-! ### A transaction -/

/-- What a phase does once its transaction has been answered `Ok`, the bytes in `RXBUF`. -/
def onBytes (p : Phase) (b0 b1 : Byte) (s : State) : State :=
  match p with
  | .rsWrite => startPolling s
  | .rsPoll => afterPoll (be16 b0 b1) s
  | .waiRead => s.finish (zextByte b0)
  | _ => s.finish (be16 b0 b1)

/-- What a transaction comes to: it waits with its frame in `TXBUF`, ends the operation with `Transport(e)`, or its
bytes are received and the phase goes on. -/
def Transacts (s t : State) (out : List Byte) (m : Nat) (tx : TxBuf) : Prop :=
  let req := Request.xfer s.devAddr out m
  let sent : State := { s with txbuf := tx }
  (s.transport.ask req = none ∧ t = sent) ∨
  (∃ e tr, s.transport.ask req = some (.err e, tr) ∧ t = (sent.answered req (.err e) tr).raise (.transport e)) ∨
  (∃ b0 b1 tr rx, s.transport.ask req = some (.ok b0 b1, tr) ∧
    t = onBytes s.phase b0 b1 { sent.answered req (.ok b0 b1) tr with rxbuf := rx })

theorem transacts_write {s t : State} {reg : Reg} {v : Word} (hp : s.phase = .rsWrite ∨ s.phase = .regWrite)
    (h : .next t = (rpuWrite reg v s).complete afterWrite) :
    Transacts s t [reg.ptr, hi8 v, lo8 v] 2 ⟨reg.ptr, hi8 v, lo8 v⟩ := by
  unfold rpuWrite at h
  rcases transact_cases (.xfer s.devAddr [reg.ptr, hi8 v, lo8 v] 2) (s.setTx reg.ptr (hi8 v) (lo8 v)) with
    ⟨ha, hb⟩ | ⟨e, tr, ha, hb⟩ | ⟨b0, b1, tr, ha, hb⟩ <;> rw [hb] at h
  · exact .inl ⟨ha, Host.Outcome.next.inj h⟩
  · exact .inr (.inl ⟨e, tr, ha, Host.Outcome.next.inj h⟩)
  · refine .inr (.inr ⟨b0, b1, tr, ⟨b0, b1⟩, ha, ?_⟩)
    simp only [Txn.intoRx, Txn.complete, Host.Outcome.next.injEq, afterWrite, State.setRx_phase,
      State.answered_phase, State.setTx_phase] at h
    show t = onBytes s.phase b0 b1 (((s.setTx reg.ptr (hi8 v) (lo8 v)).answered
      (.xfer s.devAddr [reg.ptr, hi8 v, lo8 v] 2) (.ok b0 b1) tr).setRx b0 b1)
    refine h.trans ?_
    rcases hp with hp | hp <;> simp only [hp, onBytes]

theorem transacts_read {s t : State} {reg : Reg}
    (hp : s.phase = .rsPoll ∨ s.phase = .rsRead ∨ s.phase = .regRead)
    (h : .next t = (rpuRead reg s).complete afterRead) :
    Transacts s t [reg.ptr] 2 { s.txbuf with b0 := reg.ptr } := by
  unfold rpuRead at h
  rcases transact_cases (.xfer s.devAddr [reg.ptr] 2) (s.setTx0 reg.ptr) with
    ⟨ha, hb⟩ | ⟨e, tr, ha, hb⟩ | ⟨b0, b1, tr, ha, hb⟩ <;> rw [hb] at h
  · exact .inl ⟨ha, Host.Outcome.next.inj h⟩
  · exact .inr (.inl ⟨e, tr, ha, Host.Outcome.next.inj h⟩)
  · refine .inr (.inr ⟨b0, b1, tr, ⟨b0, b1⟩, ha, ?_⟩)
    simp only [Txn.intoRx, Txn.complete, Host.Outcome.next.injEq, afterRead, State.setRx_phase,
      State.answered_phase, State.setTx0_phase] at h
    show t = onBytes s.phase b0 b1 (((s.setTx0 reg.ptr).answered
      (.xfer s.devAddr [reg.ptr] 2) (.ok b0 b1) tr).setRx b0 b1)
    refine h.trans ?_
    rcases hp with hp | hp | hp <;> simp only [hp, onBytes]

theorem transacts_byte {s t : State} (hp : s.phase = .waiRead)
    (h : .next t = (rpuReadByte s).complete fun b _ s => s.finish (zextByte b)) :
    Transacts s t [Config.whoamiReg] 1 { s.txbuf with b0 := Config.whoamiReg } := by
  unfold rpuReadByte at h
  rcases transact_cases (.xfer s.devAddr [Config.whoamiReg] 1) (s.setTx0 Config.whoamiReg) with
    ⟨ha, hb⟩ | ⟨e, tr, ha, hb⟩ | ⟨b0, b1, tr, ha, hb⟩ <;> rw [hb] at h
  · exact .inl ⟨ha, Host.Outcome.next.inj h⟩
  · exact .inr (.inl ⟨e, tr, ha, Host.Outcome.next.inj h⟩)
  · refine .inr (.inr ⟨b0, b1, tr, { s.rxbuf with b0 := b0 }, ha, ?_⟩)
    refine (Host.Outcome.next.inj h).trans ?_
    simp only [hp, onBytes]
    rfl

/-- What a transaction phase turns to: its frame, or a stop where `TXBUF` names no register. -/
theorem fetchRequest_xfer {s : State} (hx : s.phase.isXfer = true) :
    fetchRequest s = match frameOf s with
      | .ok i => .run i s
      | .error _ => .stop .undefinedPointer := by
  unfold fetchRequest
  cases hp : s.phase <;> first | rfl | simp [hp, Phase.isXfer] at hx

/-- A frame that decodes from a pointer and two bytes is a write frame to the register the pointer names. -/
theorem decodeFrame_write {p h l : Byte} {i : Instr} (hd : decodeFrame [p, h, l] 2 = .ok i) :
    ∃ r, Reg.ofPtr p = some r ∧ i = .fw r (be16 h l) := by
  simp only [decodeFrame, withReg] at hd
  split at hd
  · rename_i r hr
    cases hd
    exact ⟨r, hr, rfl⟩
  · cases hd

theorem decodeFrame_read {p : Byte} {i : Instr} (hd : decodeFrame [p] 2 = .ok i) :
    ∃ r, Reg.ofPtr p = some r ∧ i = .fr r := by
  simp only [decodeFrame, withReg] at hd
  split at hd
  · rename_i r hr
    cases hd
    exact ⟨r, hr, rfl⟩
  · cases hd

/-- A word whose fixed fields are those of a configuration word is what the CFS makes of its codes. -/
theorem assemble_fields {p : Params} {w : Word} (h : isConfigWord p w = true) :
    assemble p (w.extractLsb' 12 3) (w.extractLsb' 9 3) (w.extractLsb' 5 3) = w := by
  simp only [isConfigWord, Bool.and_eq_true, beq_iff_eq] at h
  obtain ⟨⟨⟨⟨⟨h15, hm⟩, hc⟩, hp⟩, hl⟩, hq⟩ := h
  replace h15 : w.getLsbD 15 = true := by simpa using congrArg (·.getLsbD 0) h15
  unfold assemble cfgBase preShifted
  rw [← hm, ← hc, ← hp, ← hl, ← hq]
  clear hm hc hp hl hq
  ext i hi
  simp only [BitVec.getElem_or, BitVec.getElem_shiftLeft, BitVec.getElem_setWidth]
  interval_cases i <;> simp_all

/-- What decodes as a payload is a configuration word, and sends the payload itself. -/
theorem decodePayload_cw {p : Params} {w : Word} {i : Instr} (hd : decodePayload p w = .ok i) :
    ∃ m g r, i = .cw m g r ∧ assemble p m g r = w := by
  unfold decodePayload at hd
  split at hd
  · rename_i hw
    cases hd
    exact ⟨_, _, _, rfl, assemble_fields hw⟩
  · cases hd

/-- A write frame read from `TXBUF` puts the same bytes there again. -/
theorem frame_again (p h l : Byte) : (⟨p, hi8 (be16 h l), lo8 (be16 h l)⟩ : TxBuf) = ⟨p, h, l⟩ := by
  congr 1 <;> ext i hi <;> interval_cases i <;> simp [hi8, lo8, be16, BitVec.getElem_extractLsb']

theorem xferShape_write (reg : Reg) (h l : Byte) : xferShape [reg.ptr, h, l] 2 = true := by simp [xferShape]

theorem xferShape_read (reg : Reg) : xferShape [reg.ptr] 2 = true := by simp [xferShape]

/-- A step in a transaction phase makes one transaction of one of the three shapes, with its frame in `TXBUF`; but for
WHO_AM_I that frame names a register. -/
theorem xfer_cases {s t : State} (hx : s.phase.isXfer = true)
    (hs : ∀ clk rest, s.transport.script ≠ .reset clk :: rest) (h : step s = .next t) :
    ∃ out m, xferShape out m = true ∧ (s.phase ≠ .waiRead → ∃ r, (frameSent s).b0 = Reg.ptr r) ∧
      Transacts s t out m (frameSent s) := by
  unfold step at h
  rw [fetch_busy (Phase.not_idle_of_xfer hx) hs, fetchRequest_xfer hx] at h
  cases hf : frameOf s with
  | error e => simp [hf] at h
  | ok i =>
    simp only [hf] at h
    replace h := h.symm
    unfold frameOf at hf
    unfold frameSent
    cases hp : s.phase <;> simp only [hp, Phase.isXfer, Bool.false_eq_true] at hx <;> simp only [hp] at hf
    · have hi : i = .fw .config s.cfgw ∨ ∃ m g r, i = .cw m g r ∧ assemble s.params m g r = s.cfgw := by
        split at hf
        · rename_i j hd
          cases hf
          exact .inr (decodePayload_cw hd)
        · cases hf
          exact .inl rfl
      rcases hi with rfl | ⟨m, g, r, rfl, hw⟩
      · simp only [exec, execFw, whenIssued, hp, issuesFw, beq_self_eq_true, if_true] at h
        exact ⟨_, _, xferShape_write _ _ _, fun _ => ⟨.config, rfl⟩, transacts_write (.inl hp) h⟩
      · simp only [exec, execCw, whenIssued, hp, beq_self_eq_true, if_true, hw] at h
        exact ⟨_, _, xferShape_write _ _ _, fun _ => ⟨.config, rfl⟩, transacts_write (.inl hp) h⟩
    · obtain ⟨r, hr, rfl⟩ := decodeFrame_read hf
      rw [Reg.ofPtr_ptr, Option.some.injEq] at hr
      subst hr
      simp only [exec, execFr, whenIssued, hp, issuesFr, beq_self_eq_true, if_true] at h
      exact ⟨_, _, xferShape_read _, fun _ => ⟨.config, rfl⟩, transacts_read (.inl hp) h⟩
    · obtain ⟨r, hr, rfl⟩ := decodeFrame_read hf
      rw [Reg.ofPtr_ptr, Option.some.injEq] at hr
      subst hr
      simp only [exec, execFr, whenIssued, hp, issuesFr, beq_self_eq_true, if_true] at h
      exact ⟨_, _, xferShape_read _, fun _ => ⟨.conversion, rfl⟩, transacts_read (.inr (.inl hp)) h⟩
    · cases hf
      simp only [exec, execFb, whenIssued, hp, beq_self_eq_true, if_true] at h
      exact ⟨_, _, rfl, fun hw => absurd rfl hw, transacts_byte hp h⟩
    · obtain ⟨r, hr, rfl⟩ := decodeFrame_write hf
      simp only [exec, execFw, whenIssued, hp, issuesFw, if_true] at h
      have ht := transacts_write (.inr hp) h
      rw [frame_again, Reg.ptr_of_ofPtr hr] at ht
      exact ⟨_, _, by simp [xferShape, hr], fun _ => ⟨r, (Reg.ptr_of_ofPtr hr).symm⟩, ht⟩
    · obtain ⟨r, hr, rfl⟩ := decodeFrame_read hf
      simp only [exec, execFr, whenIssued, hp, issuesFr, if_true] at h
      have ht := transacts_read (.inr (.inr hp)) h
      rw [Reg.ptr_of_ofPtr hr] at ht
      exact ⟨_, _, by simp [xferShape, hr], fun _ => ⟨r, (Reg.ptr_of_ofPtr hr).symm⟩, ht⟩

/-! ### Several steps -/

theorem steps_succ {s t : State} {n : Nat} (h : step s = .next t) : steps (n + 1) s = steps n t := by
  simp [steps, h]

end Sys2Proof.Machine
end

