-- ==== Sys2Proof/Tests/Slice0.lean ====
section
/-!
SUPPORT. The model's own tests. Expected values come from spec/95_test_vectors.md (the vector is named), from the
encodings of 30_encoding.md, or from a rule by hand. A `witness_<Name>` theorem shows values that meet the hypotheses of
the statement `<Name>`, all of them together.
-/

namespace Sys2Proof.Tests

open Sys2Proof Sys2Proof.Machine

/-! ### States -/

/-- An initialized block in `IDLE` with the codes of the vectors (`GAIN = 0b010`, `RATE = 0b100`), the bus set up. -/
def ready : State :=
  { State.reset with life := .init, gain := 0b010, rate := 0b100, trace := setterEvents 400000 3 }

/-- The host presents these. -/
def presents (s : State) (h : List HostInput) : State := { s with host := h }

/-- The transport will answer with these. -/
def answers (s : State) (r : List Reply) : State := { s with transport := { s.transport with script := r } }

/-- In this phase. -/
def inPhase (s : State) (p : Phase) : State := { s with phase := p }

/-- Behind the transport stands this fixture. -/
def facing (s : State) (f : Fixture) : State := { s with transport := { s.transport with fixture := f } }

/-- The state after a step. -/
def stateOf : Host.Outcome State Fault Refusal → Option State
  | .next s => some s
  | .fault _ => none
  | .refused _ => none

/-- The newest event of a step's record. -/
def newest : Host.Outcome State Fault Refusal → Option Event
  | .next s => s.trace.head?
  | .fault _ => none
  | .refused _ => none

/-- The phase after a step. -/
def phaseOf : Host.Outcome State Fault Refusal → Option Phase
  | .next s => some s.phase
  | .fault _ => none
  | .refused _ => none

/-- `Ok(v)` as it stands in the record. -/
def ok (v : Word) : Option Event := some (.response ⟨1, 0, v, none⟩)

/-- `Err(kind)` as it stands in the record. -/
def err (code : BitVec 4) (e : Option TransportError) : Option Event := some (.response ⟨0, code, 0, e⟩)

/-- Some transport error. -/
def nack : TransportError := ⟨17⟩

/-! ### Decoding: words written out from R51 to R55 -/

/-- Vector V30 and R55, a word of every operation of the command port. -/
theorem test_decode_commands :
    decodeCommand 0b000000000000000000000000 = .ok .initialise ∧
    decodeCommand 0b000100110000000000000000 = .ok (.readSingle .ch3) ∧
    decodeCommand 0b001001010000000000000000 = .ok (.setGain 5) ∧
    decodeCommand 0b001100000000000000000000 = .ok .getGain ∧
    decodeCommand 0b010001110000000000000000 = .ok (.setDataRate 7) ∧
    decodeCommand 0b010100000000000000000000 = .ok .getDataRate ∧
    decodeCommand 0b011000000000000000000000 = .ok .whoAmI ∧
    decodeCommand 0b011100010000000000000000 = .ok (.cfgAssemble .ch1) ∧
    decodeCommand 0b100000011100010110000011 = .ok (.writeRegister .config 0xC583) ∧
    decodeCommand 0b100100100000000000000000 = .ok (.readRegister .loThresh) := by decide

/-- R51 to R54: a word of every frame and payload. `0b1_101_010_1_100_0_0_0_11` is vector V11's word of CH1, G2, DR4. -/
theorem test_decode_frames :
    decodeFrame [0b00000010, 0b10000000, 0b00000001] 2 = .ok (.fw .loThresh 0x8001) ∧
    decodeFrame [0b00000011] 2 = .ok (.fr .hiThresh) ∧
    decodeFrame [0b01110101] 1 = .ok .fb ∧
    decodePayload Params.default 0b1101010110000011 = .ok (.cw 0b101 0b010 0b100) := by decide

/-- Vector V31: the illegal commands, but for the two of R62. -/
theorem test_decode_illegal :
    (([0xA00000, 0xB00000, 0xC00000, 0xD00000, 0xE00000, 0xF00000, 0xF12345, 0x000001, 0x010000, 0x140000, 0x180000,
       0x100001, 0x280000, 0x480000, 0x310000, 0x510000, 0x610000, 0x740000, 0x84C583, 0x900001, 0x940000] :
        List Command).all fun w => match decodeCommand w with
      | .ok _ => false
      | .error _ => true) = true := by decide

/-- Vector V31, legal at the edge. -/
theorem test_decode_edge :
    decodeCommand 0x80FFFF = .ok (.writeRegister .conversion 0xFFFF) ∧
    decodeCommand 0x470000 = .ok (.setDataRate 7) ∧ decodeCommand 0x250000 = .ok (.setGain 5) := by decide

/-- R33, R65: pointers and lengths that are no frame's; R20, R63: a word whose start bit is clear or whose mode is not
single-shot is no configuration word. -/
theorem test_decode_refused :
    decodeFrame [0x04] 2 = .error .undefinedPointer ∧ decodeFrame [0x74] 1 = .error .undefinedPointer ∧
    decodeFrame [0x75] 2 = .error .undefinedPointer ∧ decodeFrame [0x00, 0x00] 2 = .error .unknownFrame ∧
    decodePayload Params.default 0x5583 = .error .notConfigWord ∧
    decodePayload Params.default 0xD483 = .error .notConfigWord := by decide

/-- R66: lines, their words (vector V30) and their text. -/
theorem test_lines :
    Line.word Params.default (.writeRegister .hiThresh 0x7FFF) = 0x837FFF ∧
    Line.word Params.default (.setGain 3) = 0x230000 ∧
    Line.text (.writeRegister .config 0xC583) = "WRITE_REGISTER CONFIG, 0xC583" ∧
    Line.text (.readSingle .ch2) = "READ_SINGLE CH2" := by decide

/-- The words of every row of the opcode table, numbered as the table numbers them. -/
theorem test_table_words :
    decodeTableWord 24 0x120000 = some (.readSingle .ch2) ∧ decodeTableWord 24 0x03A55A = some (.fw .hiThresh 0xA55A) ∧
    decodeTableWord 8 0x02 = some (.fr .loThresh) ∧ decodeTableWord 8 0x75 = some .fb ∧
    decodeTableWord 16 0xFBE3 = some (.cw 0b111 0b101 0b111) ∧ decodeTableWord 24 0xA00000 = none := by decide

/-- A table word stored for the next step is the instruction that step runs. -/
theorem test_fetch_words :
    phaseOf (step (ready.withFetchWord 24 0x120000)) = some .rsWrite ∧
    newest (step ((answers ready [.ok 0xA5 0x5A]).withFetchWord 24 0x03A55A)) = ok 0xA55A ∧
    newest (step ((answers ready [.reset none, .ok 0x12 0x34]).withFetchWord 8 0x00)) = ok 0x1234 ∧
    newest (step ((answers ready [.ok 0xA5 0x00]).withFetchWord 8 0x75)) = ok 0x00A5 ∧
    phaseOf (step ((answers ready [.ok 0xD5 0x83]).withFetchWord 16 0xD583)) = some .rsPoll := by decide

/-- After a reset, with nothing placed, the block waits. -/
theorem test_reset_waits : stateOf (step State.reset) = some State.reset := by decide

/-! ### Well-formedness: an ill-formed term for each check -/

/-- R62: the two codes that are no gain code under the default codes. -/
theorem test_wellformed_set_gain :
    WellFormed Params.default (.setGain 5) = true ∧ WellFormed Params.default (.setGain 6) = false ∧
    WellFormed Params.default (.setGain 7) = false := by decide

/-- R21: a differential mux pattern, and a gain field that is no gain code. -/
theorem test_wellformed_cw :
    WellFormed Params.default (.cw 0b111 0b101 0b111) = true ∧ WellFormed Params.default (.cw 0b011 0 0) = false ∧
    WellFormed Params.default (.cw 0b100 0b110 0) = false := by decide

/-- R4: a cap of 0 polls, and two equal codes. -/
theorem test_params_wf :
    Params.default.wf = true ∧ { Params.default with maxPolls := some 0 }.wf = false ∧
    { Params.default with muxSe := #v[4, 5, 6, 6] }.wf = false := by decide

/-! ### Words, the serializer, memory -/

/-- Vector V3. -/
theorem test_bytes :
    hi8 0xA55A = 0xA5 ∧ lo8 0xA55A = 0x5A ∧ be16 0xA5 0x5A = 0xA55A ∧ be16 0x00 0xFF = 0x00FF ∧
    statusBit (be16 0x80 0x00) = true ∧ statusBit (be16 0x00 0x80) = false := by decide

/-- Vector V11. -/
theorem test_cfg_words :
    cfgAssembleWord Params.default .ch0 0b010 0b100 = 0xC583 ∧
    cfgAssembleWord Params.default .ch0 0b000 0b000 = 0xC103 ∧
    cfgAssembleWord Params.default .ch3 0b101 0b111 = 0xFBE3 ∧
    cfgAssembleWord Params.default .ch1 0b001 0b111 = 0xD3E3 ∧
    cfgAssembleWord Params.default .ch2 0b011 0b101 = 0xE7A3 := by decide

/-- Vector V4: what is not written reads 0, and writing 0 leaves no entry. -/
theorem test_memory :
    Memory.read (Memory.write [] 3 0xA55A) 3 = 0xA55A ∧ Memory.read (Memory.write [] 3 0xA55A) 2 = 0 ∧
    Memory.write (Memory.write [] 3 0xA55A) 3 0 = [] ∧
    Memory.write [(3, 7)] 1 9 = [(1, 9), (3, 7)] := by decide

/-! ### The command port -/

/-- Vectors P2 and V32. -/
theorem test_initialise :
    phaseOf (exec .initialise State.reset) = some .initIdleTo ∧ newest (exec .initialise ready) = err 6 none := by decide

/-- The last setter of INITIALIZE answered `Ok` (vector P1 line 1). -/
theorem test_initialise_last_setter :
    stateOf (step (answers (inPhase State.reset .initClock) [.ok 0 0])) =
      some { State.reset with
        life := .init, gain := 0b010, rate := 0b100
        transport := ⟨[], .absent, none, none, some 400000⟩
        trace := [.response ⟨1, 0, 0, none⟩, .request (.setClockSpeed 400000) (.ok [])] } := by decide

/-- Vector P1 line 7, its first step. -/
theorem test_read_single :
    stateOf (exec (.readSingle .ch1) { ready with gain := 0b001, rate := 0b111 }) =
      some { ready with gain := 0b001, rate := 0b111, chan := 1, cfgw := 0xD3E3, phase := .rsWrite } := by decide

/-- Vector V32: in `UNINIT`. -/
theorem test_read_single_refused : newest (exec (.readSingle .ch0) State.reset) = err 5 none := by decide

/-- Vector V50 lines 4 and 6. -/
theorem test_set_gain :
    stateOf (exec (.setGain 5) ready) = some { ready with gain := 5, trace := .response ⟨1, 0, 0, none⟩ :: ready.trace } ∧
    stateOf (exec (.setGain 6) ready) = some { ready with trace := .response ⟨0, 7, 0, none⟩ :: ready.trace } := by decide

/-- Vector V50 line 1. -/
theorem test_get_gain : newest (exec .getGain ready) = ok 0x0002 := by decide

/-- Vector V50 line 8. -/
theorem test_set_data_rate :
    stateOf (exec (.setDataRate 7) ready) =
      some { ready with rate := 7, trace := .response ⟨1, 0, 0, none⟩ :: ready.trace } := by decide

/-- Vector P1 line 3. -/
theorem test_get_data_rate : newest (exec .getDataRate ready) = ok 0x0004 := by decide

/-- Vector V70, the request; V32. -/
theorem test_who_am_i :
    stateOf (exec .whoAmI ready) = some { ready with txbuf := ⟨0x75, 0, 0⟩, phase := .waiRead } ∧
    newest (exec .whoAmI State.reset) = err 5 none := by decide

/-- Vector V50 lines 12 and 13. -/
theorem test_cfg_assemble :
    newest (exec (.cfgAssemble .ch3) { ready with gain := 0b101, rate := 0 }) = ok 0xFB03 ∧
    newest (exec (.cfgAssemble .ch0) { ready with gain := 0b101, rate := 0 }) = ok 0xCB03 := by decide

/-- Vector V1, the frame. -/
theorem test_write_register :
    stateOf (exec (.writeRegister .config 0x00FF) ready) =
      some { ready with txbuf := ⟨0x01, 0x00, 0xFF⟩, phase := .regWrite } := by decide

/-- Vector V2, the frame. -/
theorem test_read_register :
    stateOf (exec (.readRegister .hiThresh) ready) =
      some { ready with txbuf := ⟨0x03, 0, 0⟩, phase := .regRead } := by decide

/-- R99: the port of a busy block takes nothing. -/
theorem test_busy_port : stateOf (exec .getGain (inPhase ready .rsPoll)) = some (inPhase ready .rsPoll) := by decide

/-! ### Frames -/

/-- Vector V1: the answer, not the word written, is the result. -/
theorem test_fw :
    stateOf (exec (.fw .config 0x1234) (answers (inPhase ready .regWrite) [.ok 0x34 0x12])) =
      some { ready with
        txbuf := ⟨0x01, 0x12, 0x34⟩, rxbuf := ⟨0x34, 0x12⟩
        trace := .response ⟨1, 0, 0x3412, none⟩ :: .request (.xfer 0x48 [0x01, 0x12, 0x34] 2) (.ok [0x34, 0x12]) ::
          ready.trace } := by decide

/-- Vector V1, last row. -/
theorem test_fw_fault :
    newest (exec (.fw .config 0xC583) (answers (inPhase ready .regWrite) [.err nack])) = err 4 (some nack) := by decide

/-- Vector V2: no byte swap, no sign. -/
theorem test_fr :
    newest (exec (.fr .conversion) (answers (inPhase ready .regRead) [.ok 0x12 0x34])) = ok 0x1234 ∧
    newest (exec (.fr .conversion) (answers (inPhase ready .rsRead) [.ok 0xFF 0xFF])) = ok 0xFFFF := by decide

/-- Vector V61: bit 15 alone decides. -/
theorem test_fr_poll :
    phaseOf (exec (.fr .config) (answers (inPhase ready .rsPoll) [.ok 0x80 0x00])) = some .rsRead ∧
    phaseOf (exec (.fr .config) (answers (inPhase ready .rsPoll) [.ok 0x7F 0xFF])) = some .rsPoll ∧
    phaseOf (exec (.fr .config) (answers (inPhase ready .rsPoll) [.ok 0x00 0x80])) = some .rsPoll := by decide

/-- Vector V70: zero-extended. -/
theorem test_fb : newest (exec .fb (answers (inPhase ready .waiRead) [.ok 0xFF 0x77])) = ok 0x00FF := by decide

/-- Vector V62: the word read back by the configuration write is not tested. -/
theorem test_cw :
    phaseOf (exec (.cw 0b101 0b010 0b100) (answers (inPhase ready .rsWrite) [.ok 0x00 0x00])) = some .rsPoll ∧
    newest (exec (.cw 0b101 0b010 0b100) (answers (inPhase ready .rsWrite) [.ok 0xFF 0xFF])) =
      some (.request (.xfer 0x48 [0x01, 0xD5, 0x83] 2) (.ok [0xFF, 0xFF])) := by decide

/-- R46: `ScriptedDevice(1, c, id)`, a configuration write, a busy poll, a free one (vector P1 line 7). -/
theorem test_scripted :
    scriptedAnswer 1 0x7FFF 0xA5 0 0 (.xfer 0x48 [0x01, 0xD3, 0xE3] 2) = some (.ok 0xD3 0xE3, 0xD3E3, 1) ∧
    scriptedAnswer 1 0x7FFF 0xA5 0xD3E3 1 (.xfer 0x48 [0x01] 2) = some (.ok 0x53 0xE3, 0xD3E3, 0) ∧
    scriptedAnswer 1 0x7FFF 0xA5 0xD3E3 0 (.xfer 0x48 [0x01] 2) = some (.ok 0xD3 0xE3, 0xD3E3, 0) := by decide

/-! ### Witnesses: hypotheses that hold together -/

theorem witness_ReservedOpcodeRefused :
    (presents ready [.command 0xA00000]).phase = .idle ∧
    (presents ready [.command 0xA00000]).host = [.command 0xA00000] ∧ 0xA ≤ (cmdOp 0xA00000).toNat := by decide

theorem witness_StrayBitRefused :
    (presents ready [.command 0x940000]).phase = .idle ∧ (cmdOp 0x940000).toNat ≤ 0x9 ∧
    (presents ready [.command 0x940000]).host = [.command 0x940000] ∧
    ∀ r ∈ commandRows, (0x940000 : Command) &&& r.2 ≠ r.1 :=
  ⟨by decide, by decide, by decide, by simp [commandRows]⟩

theorem witness_IllegalGainCodeRefused :
    ready.phase = .idle ∧ ∀ i : Fin 6, ready.params.gainCode[i] ≠ (0b110 : Code) := by decide

theorem witness_EncodeOfDecode :
    decode Params.default (.command 0x837FFF) = .ok (.writeRegister .hiThresh 0x7FFF) ∧
    decode Params.default (.frame [0x02] 2) = .ok (.fr .loThresh) ∧
    decode Params.default (.payload 0xC583) = .ok (.cw 0b100 0b010 0b100) := by decide

theorem witness_CfgInjective :
    Params.default.wf = true ∧
    cfgAssembleWord Params.default .ch1 2 4 = cfgAssembleWord Params.default .ch1 2 4 := by decide

theorem witness_StepRunsCommand :
    (presents ready [.command 0x300000]).phase = .idle ∧ decodeCommand 0x300000 = .ok .getGain ∧
    (presents ready [.command 0x300000]).host = [.command 0x300000] := by decide

theorem witness_StepRunsFrame :
    (inPhase ready .rsPoll).phase.isXfer = true ∧
    (∀ clk rest, (inPhase ready .rsPoll).transport.script ≠ .reset clk :: rest) ∧
    frameOf (inPhase ready .rsPoll) = .ok (.fr .config) := by
  refine ⟨by decide, ?_, by decide⟩
  intro _ _ h
  cases h

/-- One state for each clause of `FrameOfEachPhase` that has more than a phase for a hypothesis. -/
theorem witness_FrameOfEachPhase :
    (inPhase { ready with cfgw := 0xC583 } .rsWrite).cfgw = configWord ready.params 0b100 0b010 0b100 ∧
    (inPhase { ready with txbuf := ⟨0x03, 0xA5, 0x5A⟩ } .regWrite).txbuf =
      ⟨Reg.ptr .hiThresh, hi8 0xA55A, lo8 0xA55A⟩ ∧
    (inPhase { ready with txbuf := ⟨0x03, 0, 0⟩ } .regRead).txbuf.b0 = Reg.ptr .hiThresh := by decide

theorem witness_IdleWaits : ready.phase = .idle ∧ ready.host = [] := by decide

/-- Nothing answers: no script, no fixture. The poll has put its pointer byte in `TXBUF[0]`, the configuration write its
frame in all of `TXBUF`, a setter nothing. -/
theorem witness_RequestBlocks :
    (inPhase ready .rsPoll).phase ≠ .idle ∧
    (∀ clk rest, (inPhase ready .rsPoll).transport.script ≠ .reset clk :: rest) ∧
    (∀ req, (inPhase ready .rsPoll).transport.ask req = none) ∧
    stateOf (step (inPhase ready .rsPoll)) = some { inPhase ready .rsPoll with txbuf := ⟨0x01, 0, 0⟩ } ∧
    stateOf (step (inPhase { ready with cfgw := 0xD583 } .rsWrite)) =
      some { inPhase { ready with cfgw := 0xD583 } .rsWrite with txbuf := ⟨0x01, 0xD5, 0x83⟩ } ∧
    stateOf (step (inPhase State.reset .initClock)) = some (inPhase State.reset .initClock) := by
  refine ⟨by decide, ?_, fun _ => rfl, by decide, by decide, by decide⟩
  intro _ _ h
  cases h

/-- A step for `StepExtendsRecord`, `ConstantsKept` and `OneResponsePerOperation`: an operation accepted and answered. -/
theorem witness_OneResponsePerOperation :
    stateOf (step (presents ready [.command 0x300000])) =
      some { ready with trace := .response ⟨1, 0, 2, none⟩ :: ready.trace } ∧
    ((presents ready [.command 0x300000]).phase = .idle →
      ∃ w rest, (presents ready [.command 0x300000]).host = .command w :: rest) ∧
    ((presents ready [.command 0x300000]).phase ≠ .idle →
      ∀ clk rest, (presents ready [.command 0x300000]).transport.script ≠ .reset clk :: rest) :=
  ⟨by decide, fun _ => ⟨_, _, rfl⟩, fun h => absurd rfl h⟩

theorem witness_StepExtendsRecord :
    stateOf (step (answers (inPhase ready .rsPoll) [.err nack])) =
      some { ready with
        txbuf := ⟨0x01, 0, 0⟩
        trace := .response ⟨0, 4, 0, some nack⟩ :: .request (.xfer 0x48 [0x01] 2) (.err nack) :: ready.trace } := by
  decide

/-- `CLK_HZ` changes: a reset with another clock speed. -/
theorem witness_ConstantsKept :
    stateOf (step (presents ready [.reset (some 100000)])) =
      some { State.reset with clkHz := 100000, trace := .reset 100000 :: ready.trace } ∧
    (presents ready [.reset (some 100000)]).devAddr = 0x48 := by decide

/-- The block about to make the last request of INITIALIZE. -/
def lastSetter : State := { inPhase State.reset .initClock with trace := setterEvents 400000 2 }

/-- The invariant, at a state of the phase and lifecycle given, with the facts of the fields it leaves. -/
theorem inv_lastSetter (r : List Reply) : Inv (answers lastSetter r) where
  params_wf := (by decide : Params.default.wf = true)
  dev_addr := rfl
  gain_legal := fun h => by cases h
  life_fits := rfl
  level_fits := rfl
  cfgw_made := fun h => by cases h
  tx_names := fun h => by rcases h with h | h <;> cases h
  polls_below := fun h => by cases h
  memory_wf := rfl
  trace_safe := rfl

/-- The two transitions out of `UNINIT` by INITIALIZE. -/
theorem witness_LifeTransitions :
    Inv (answers lastSetter [.ok 0 0]) ∧ Inv (answers lastSetter [.err nack]) ∧
    phaseOf (step (answers lastSetter [.ok 0 0])) = some .idle ∧
    newest (step (answers lastSetter [.err nack])) = err 3 (some nack) :=
  ⟨inv_lastSetter _, inv_lastSetter _, by decide, by decide⟩

/-- READ_SINGLE about to make its configuration write: a state with the invariant from which a transaction is made. -/
theorem witness_StepKeepsInvariant :
    Inv { answers (inPhase ready .rsWrite) [.ok 0xD5 0x83] with chan := 1, cfgw := 0xD583 } ∧
    phaseOf (step { answers (inPhase ready .rsWrite) [.ok 0xD5 0x83] with chan := 1, cfgw := 0xD583 }) =
      some .rsPoll := by
  refine ⟨⟨by decide, rfl, fun _ => by decide, by decide, by decide, fun _ => ⟨.ch1, by decide⟩, ?_, ?_, rfl,
    by decide⟩, by decide⟩
  · intro h; rcases h with h | h <;> cases h
  · intro h; cases h

theorem witness_InvariantNeverStops : Inv (answers lastSetter []) := inv_lastSetter _

theorem witness_ResetHasInvariant : Params.default.wf = true ∧ (Fixture.echo [(1, 0x8583)]).wf = true := by decide

/-- Six steps from reset, INITIALIZE and the start of a READ_SINGLE, after which the record holds a transaction, or after which the
transaction is waiting for an answer. -/
theorem witness_NoTransactionBeforeSetup :
    newest (steps 6 (answers (presents State.reset [.command 0x000000, .command 0x100000])
      [.ok 0 0, .ok 0 0, .ok 0 0, .ok 0xC5 0x83])) =
      some (.request (.xfer 0x48 [0x01, 0xC5, 0x83] 2) (.ok [0xC5, 0x83])) ∧
    phaseOf (steps 6 (answers (presents State.reset [.command 0x000000, .command 0x100000])
      [.ok 0 0, .ok 0 0, .ok 0 0])) = some .rsWrite := by decide

theorem witness_BusyPortTakesNothing :
    Instr.isCommand (.readSingle .ch0) = true ∧ (inPhase ready .regRead).phase ≠ .idle := by decide

/-- One state and operation for each clause of the lifecycle guard. -/
theorem witness_LifecycleGuard :
    (State.reset.phase = .idle ∧ State.reset.life = .uninit ∧ WellFormed State.reset.params .getGain = true) ∧
    (ready.phase = .idle ∧ ready.life = .init ∧ WellFormed ready.params .initialise = true) ∧
    ({ State.reset with life := .dead }.phase = .idle ∧ { State.reset with life := .dead }.life = .dead) := by decide

/-- `InitialiseAccepted`, then `ReadSingleAccepted`, `GetGainResult`, `SetDataRateResult`, `GetDataRateResult`,
`CfgAssembleResult`, `FrameCommandsAccepted`, and `SetGainResult` at both ends of the legal codes. -/
theorem witness_accepted :
    (State.reset.phase = .idle ∧ State.reset.life = .uninit) ∧ (ready.phase = .idle ∧ ready.life = .init) ∧
    gainLegal ready.params 0 = true ∧ gainLegal ready.params 5 = true := by decide

theorem witness_SettingsSeenByNextSample :
    ready.phase = .idle ∧ ready.life = .init ∧ gainLegal ready.params 5 = true ∧
    (presents ready [.command 0x250000, .command 0x130000]).host = [.command 0x250000, .command 0x130000] ∧
    decodeCommand 0x250000 = .ok (.setGain 5) ∧ decodeCommand 0x470000 = .ok (.setDataRate 7) ∧
    decodeCommand 0x130000 = .ok (.readSingle .ch3) := by decide

/-- What the transport holds after its last scripted answer. -/
def spent : Transport := ⟨[], .absent, none, none, none⟩

theorem witness_WriteFrameResult :
    (answers (inPhase ready .regWrite) [.ok 0xC5 0x83]).transport.ask (.xfer 0x48 [Reg.ptr .config, 0xC5, 0x83] 2) =
      some (.ok 0xC5 0x83, spent) ∧
    (answers (inPhase ready .regWrite) [.err nack]).transport.ask (.xfer 0x48 [Reg.ptr .config, 0xC5, 0x83] 2) =
      some (.err nack, spent) := by decide

theorem witness_ReadFrameResult :
    (answers (inPhase ready .rsRead) [.ok 0x12 0x34]).phase = .rsRead ∧
    (answers (inPhase ready .rsRead) [.ok 0x12 0x34]).transport.ask (.xfer 0x48 [Reg.ptr .conversion] 2) =
      some (.ok 0x12 0x34, spent) ∧
    (answers (inPhase ready .regRead) [.err nack]).transport.ask (.xfer 0x48 [Reg.ptr .hiThresh] 2) =
      some (.err nack, spent) := by decide

theorem witness_ByteFrameResult :
    (answers (inPhase ready .waiRead) [.ok 0xA5 0x00]).transport.ask (.xfer 0x48 [0x75] 1) =
      some (.ok 0xA5 0x00, spent) ∧
    (answers (inPhase ready .waiRead) [.err nack]).transport.ask (.xfer 0x48 [0x75] 1) = some (.err nack, spent) := by
  decide

theorem witness_ConfigurationWrite :
    (0xC583 : Word) = configWord Params.default 0b100 0b010 0b100 ∧
    (answers (inPhase ready .rsWrite) [.ok 0x00 0x00]).transport.ask (.xfer 0x48 [0x01, 0xC5, 0x83] 2) =
      some (.ok 0x00 0x00, spent) ∧
    (answers (inPhase ready .rsWrite) [.err nack]).transport.ask (.xfer 0x48 [0x01, 0xC5, 0x83] 2) =
      some (.err nack, spent) := by decide

/-- An initialized block polling with a cap of 3 polls, `n` of them made. -/
def capped (n : Nat) (r : List Reply) : State :=
  { answers (inPhase ready .rsPoll) r with params := { Params.default with maxPolls := some 3 }, polls := n }

/-- A set bit; a clear one without a cap, below the cap (one poll short of it) and at the cap; an error. -/
theorem witness_PollResult :
    (capped 2 [.ok 0x80 0x00]).transport.ask (.xfer 0x48 [0x01] 2) = some (.ok 0x80 0x00, spent) ∧
    (0x80 : Byte).getLsbD 7 = true ∧ (0x7F : Byte).getLsbD 7 = false ∧ ready.params.maxPolls = none ∧
    (capped 1 []).polls + 1 ≠ 3 ∧ (capped 2 []).polls + 1 = 3 ∧ (capped 2 []).params.maxPolls = some 3 ∧
    (capped 1 [.ok 0x7F 0xFF]).transport.ask (.xfer 0x48 [0x01] 2) = some (.ok 0x7F 0xFF, spent) ∧
    (capped 2 [.ok 0x7F 0xFF]).transport.ask (.xfer 0x48 [0x01] 2) = some (.ok 0x7F 0xFF, spent) := by decide

theorem witness_PollFault :
    (capped 2 [.err nack]).phase = .rsPoll ∧
    (capped 2 [.err nack]).transport.ask (.xfer 0x48 [0x01] 2) = some (.err nack, spent) := by decide

/-- A set bit, and a clear one at the cap, where a response follows the poll. -/
theorem witness_OnlyStatusBitMatters :
    (0x80 : Byte).getLsbD 7 = (0xFF : Byte).getLsbD 7 ∧
    phaseOf (step { inPhase ready .rsPoll with transport := { spent with script := [.ok 0x80 0x00] } }) = some .rsRead ∧
    phaseOf (step { inPhase ready .rsPoll with transport := { spent with script := [.ok 0xFF 0xFF] } }) =
      some .rsRead ∧
    (0x00 : Byte).getLsbD 7 = (0x7F : Byte).getLsbD 7 ∧
    newest (step { capped 2 [] with transport := { spent with script := [.ok 0x00 0x00] } }) = err 8 none ∧
    newest (step { capped 2 [] with transport := { spent with script := [.ok 0x7F 0xFF] } }) = err 8 none := by decide

/-- Each clause in a transaction phase: a write frame in `RS_POLL`, and of another register in `RS_WRITE`; a read frame in
`REG_WRITE`, and of another register in `RS_POLL` and `RS_READ`. -/
theorem witness_FrameOfAnotherPhase :
    (inPhase ready .rsPoll).phase ≠ .regWrite ∧ ¬((inPhase ready .rsPoll).phase = .rsWrite ∧ Reg.config = .config) ∧
    ¬((inPhase ready .rsWrite).phase = .rsWrite ∧ Reg.hiThresh = .config) ∧ (inPhase ready .regWrite).phase ≠ .regRead ∧
    ¬((inPhase ready .rsPoll).phase = .rsPoll ∧ Reg.conversion = .config) ∧
    ¬((inPhase ready .rsRead).phase = .rsRead ∧ Reg.config = .conversion) ∧
    (inPhase ready .regRead).phase ≠ .waiRead ∧ (inPhase ready .regRead).phase ≠ .rsWrite := by decide

/-- The four scripts of `InitialiseRun`, on a block just reset. -/
theorem witness_InitialiseRun :
    (answers (presents State.reset [.command 0x000000]) [.ok 0 0, .ok 0 0, .err nack]).phase = .idle ∧
    (answers (presents State.reset [.command 0x000000]) [.ok 0 0, .ok 0 0, .err nack]).life = .uninit ∧
    (answers (presents State.reset [.command 0x000000]) [.ok 0 0, .ok 0 0, .err nack]).host = [.command 0x000000] ∧
    (answers State.reset [.ok 0 0, .ok 0 0, .ok 0 0]).transport.script = [.ok 0 0, .ok 0 0, .ok 0 0] ∧
    (answers State.reset [.ok 0 0, .err nack]).transport.script = [.ok 0 0, .err nack] ∧
    (answers State.reset [.err nack]).transport.script = [.err nack] := by decide

/-- A READ_SINGLE of CH0 about to be accepted, with these answers to come. -/
def sampling (r : List Reply) : State := answers (presents ready [.command 0x100000]) r

/-- For the statements about a whole READ_SINGLE, with any script at all: `ReadSingleSucceeds`, `ReadSingleFaults` (its
three scripts), `ReadSinglePollLimit`, `ReadSingleHangs`. -/
theorem witness_SampleStarts (r : List Reply) :
    SampleStarts (sampling r) .ch0 [] ∧ (sampling r).transport.script = r :=
  ⟨⟨rfl, rfl, 0x100000, rfl, by decide⟩, rfl⟩

/-- Two busy polls, then one that is not (vectors S2 and V60): `ReadSingleSucceeds`, `ReadSingleFaults`,
`ReadSingleHangs`. -/
theorem witness_ReadSingle :
    allBusy [(0x45, 0x83), (0x7F, 0xFF)] ∧ (0xC5 : Byte).getLsbD 7 = true ∧
    (∀ n, ready.params.maxPolls = some n → 2 < n) ∧
    (sampling (.ok 0xC5 0x83 :: pollReplies [(0x45, 0x83), (0x7F, 0xFF)] ++ .ok 0xC5 0x83 :: .ok 0x12 0x34 :: [])
        ).transport.script =
      [.ok 0xC5 0x83, .ok 0x45 0x83, .ok 0x7F 0xFF, .ok 0xC5 0x83, .ok 0x12 0x34] := by
  refine ⟨by simp [allBusy], by decide, ?_, by decide⟩
  intro n h
  cases h

/-- With a cap: two busy polls and one free one fit under a cap of 3, three busy ones reach it (vector V65). -/
theorem witness_ReadSinglePollLimit :
    allBusy [(0x45, 0x83), (0x45, 0x83), (0x45, 0x83)] ∧
    { sampling [] with params := { Params.default with maxPolls := some 3 } }.params.maxPolls =
      some [((0x45 : Byte), (0x83 : Byte)), (0x45, 0x83), (0x45, 0x83)].length ∧
    SampleStarts { sampling [] with params := { Params.default with maxPolls := some 3 } } .ch0 [] ∧
    ∀ n, { Params.default with maxPolls := some 3 }.maxPolls = some n → 2 < n := by
  refine ⟨by simp [allBusy], rfl, ⟨rfl, rfl, 0x100000, rfl, by decide⟩, ?_⟩
  intro n h; cases h; decide

theorem witness_ScriptedDeviceSample :
    SampleStarts (facing (sampling []) (.scripted 2 0xBEEF 0xA5 0 0)) .ch0 [] ∧ ready.params.maxPolls = none ∧
    (facing (sampling []) (.scripted 2 0xBEEF 0xA5 0 0)).transport.fixture = .scripted 2 0xBEEF 0xA5 0 0 :=
  ⟨⟨rfl, rfl, 0x100000, rfl, rfl⟩, rfl, rfl⟩

/-- A canonical memory and the two command words of vector V4: `EchoReadAfterWrite`, `EchoStoresOnlyWritten`,
`EchoRoundTrip`. -/
theorem witness_Echo :
    Memory.wf [(1, 0x8583), (3, 0x7FFF)] = true ∧
    (facing ready (.echo [(1, 0x8583), (3, 0x7FFF)])).transport.script = [] ∧
    decodeCommand 0x83A55A = .ok (.writeRegister .hiThresh 0xA55A) ∧
    decodeCommand 0x930000 = .ok (.readRegister .hiThresh) := by decide

/-- A frame of each form in a phase that sends it, behind the echoing transport (`EchoStoresOnlyWritten`). -/
theorem witness_EchoStores :
    (facing (inPhase ready .rsWrite) (.echo [(3, 0x7FFF)])).transport.script = [] ∧
    (facing (inPhase ready .rsWrite) (.echo [(3, 0x7FFF)])).transport.fixture = .echo [(3, 0x7FFF)] ∧
    WritesWord (facing (inPhase ready .regWrite) (.echo [(3, 0x7FFF)])) (.fw .loThresh 0x8000) .loThresh 0x8000 ∧
    WritesWord (facing (inPhase ready .rsWrite) (.echo [(3, 0x7FFF)])) (.cw 0b100 0b010 0b100) .config 0xC583 ∧
    Reads (facing (inPhase ready .regRead) (.echo [(3, 0x7FFF)])) (.fr .hiThresh) ∧
    Reads (facing (inPhase ready .rsPoll) (.echo [(3, 0x7FFF)])) (.fr .config) ∧
    Reads (facing (inPhase ready .rsRead) (.echo [(3, 0x7FFF)])) (.fr .conversion) ∧
    Reads (facing (inPhase ready .waiRead) (.echo [(3, 0x7FFF)])) .fb :=
  ⟨rfl, rfl, .inl ⟨rfl, rfl⟩, .inr ⟨rfl, rfl, .inr ⟨_, _, _, rfl, by decide⟩⟩, .inl ⟨rfl, _, rfl⟩,
    .inr (.inl ⟨rfl, rfl⟩), .inr (.inr (.inl ⟨rfl, rfl⟩)), .inr (.inr (.inr ⟨rfl, rfl⟩))⟩

/-- A reset in `IDLE` (`ResetValues`, `ResetKeepsEnvironment`), and while a poll or a setter is in flight
(`ResetWhileBusy`). -/
theorem witness_Reset :
    (presents ready [.reset none]).phase = .idle ∧ (presents ready [.reset none]).host = [.reset none] ∧
    (answers (inPhase ready .rsPoll) [.reset (some 100000)]).phase ≠ .idle ∧
    (answers (inPhase ready .rsPoll) [.reset (some 100000)]).transport.script = [.reset (some 100000)] ∧
    (answers (inPhase State.reset .initClock) [.reset none]).phase ≠ .idle ∧
    (answers (inPhase State.reset .initClock) [.reset none]).transport.script = [.reset none] := by decide

end Sys2Proof.Tests
end

/-!
PROOFS. 00_scope.md: what one step adds to the record of the ports (R2, R40).
-/

namespace Sys2Proof.Machine

/-- The record `new` is the record `old`, or `old` with one response in front: what is left to happen to the record once
the request of a step, if it makes one, is recorded. -/
def MayRespond (old new : List Event) : Prop := new = old ∨ ∃ r, new = .response r :: old

theorem MayRespond.silent (old : List Event) : MayRespond old old := .inl rfl

theorem MayRespond.response (old : List Event) (r : Response) : MayRespond old (.response r :: old) := .inr ⟨r, rfl⟩

/-! ### The operations that may respond -/

/-- An accepted operation responds at once, or moves to its first request. -/
theorem ran_mayRespond (i : Instr) (s : State) : MayRespond s.trace (ran i s).trace := by
  cases i with
  | setGain | getGain | setDataRate | getDataRate | cfgAssemble => exact .response _ _
  | initialise | readSingle | whoAmI | writeRegister | readRegister | fw | fr | fb | cw => exact .silent _

/-- A setter answered `Ok` leads to the next setter, or it was the last and INITIALIZE responds. -/
theorem setterOf_mayRespond (s u : State) : MayRespond u.trace ((setterOf s).2.2 u).trace := by
  unfold setterOf
  split
  · exact .silent _
  · exact .silent _
  · exact .response _ _

theorem startPolling_trace (s : State) : (startPolling s).trace = s.trace := by
  unfold startPolling
  split <;> rfl

/-- A poll gives no response but the error at the cap (R114). -/
theorem afterPoll_mayRespond (w : Word) (s : State) : MayRespond s.trace (afterPoll w s).trace := by
  unfold afterPoll
  split
  · exact .silent _
  · split
    · exact .silent _
    · split
      · exact .response _ _
      · exact .silent _

/-- A transaction answered `Ok` leads on within READ_SINGLE, or ends its operation with a response. -/
theorem onBytes_mayRespond (p : Phase) (b0 b1 : Byte) (s : State) : MayRespond s.trace (onBytes p b0 b1 s).trace := by
  unfold onBytes
  split
  · exact .inl (startPolling_trace s)
  · exact afterPoll_mayRespond _ _
  · exact .response _ _
  · exact .response _ _

/-! ### What a step records -/

/-- What a step does to the record: a reset is recorded, or at most a response, or the request of the phase and then at
most a response. -/
def Records (old new : List Event) : Prop :=
  (∃ clk, new = .reset clk :: old) ∨ MayRespond old new ∨ ∃ req res, MayRespond (.request req res :: old) new

theorem Records.reset (old : List Event) (clk : Nat) : Records old (.reset clk :: old) := .inl ⟨clk, rfl⟩

theorem Records.noRequest {old new : List Event} (h : MayRespond old new) : Records old new := .inr (.inl h)

theorem Records.requested {old new : List Event} {req : Request} {res : Result}
    (h : MayRespond (.request req res :: old) new) : Records old new := .inr (.inr ⟨req, res, h⟩)

/-- In `IDLE` no request is made. -/
theorem idle_records {s t : State} (hp : s.phase = .idle) (h : step s = .next t) : Records s.trace t.trace := by
  obtain ⟨-, rfl⟩ | ⟨clk, rest, -, rfl⟩ | ⟨w, rest, -, ⟨e, -, rfl⟩ | ⟨i, -, -, -, -, rfl⟩⟩ := idle_cases hp h
  · exact .noRequest (.silent _)
  · exact .reset _ _
  · exact .noRequest (.response _ _)
  · exact .noRequest (ran_mayRespond i { s with host := rest })

/-- In a phase of INITIALIZE the one request is the setter's. -/
theorem init_records {s t : State} (hi : s.phase.isInit = true)
    (hs : ∀ clk rest, s.transport.script ≠ .reset clk :: rest) (h : step s = .next t) : Records s.trace t.trace := by
  obtain ⟨-, rfl⟩ | ⟨e, tr, -, rfl⟩ | ⟨b0, b1, tr, -, rfl⟩ := init_cases hi hs h
  · exact .noRequest (.silent _)
  · exact .requested (.response _ _)
  · exact .requested (setterOf_mayRespond s (s.answered _ _ tr))

theorem Transacts.records {s t : State} {out : List Byte} {m : Nat} {tx : TxBuf} (h : Transacts s t out m tx) :
    Records s.trace t.trace := by
  obtain ⟨-, rfl⟩ | ⟨e, tr, -, rfl⟩ | ⟨b0, b1, tr, rx, -, rfl⟩ := h
  · exact .noRequest (.silent _)
  · exact .requested (.response _ _)
  · exact .requested (onBytes_mayRespond _ _ _ _)

/-- R2, R40: every step that answers a next state, in every phase and with a reset in flight or without. -/
theorem step_records {s t : State} (h : step s = .next t) : Records s.trace t.trace := by
  by_cases hp : s.phase = .idle
  · exact idle_records hp h
  · obtain ⟨clk, rest, hs⟩ | hs := reset_or_not s
    · rw [step_abandon hp hs, Host.Outcome.next.injEq] at h
      subst h
      exact .reset _ _
    · obtain hi | hx := Phase.init_or_xfer hp
      · exact init_records hi hs h
      · obtain ⟨out, m, -, -, ht⟩ := xfer_cases hx hs h
        exact ht.records

/-- Settles O18: by what a step records, the new events are a reset, or at most one request and one response. -/
theorem stepExtendsRecord : Obligations.StepExtendsRecord := by
  intro s t h
  obtain ⟨clk, ht⟩ | (ht | ⟨r, ht⟩) | ⟨req, res, ht | ⟨r, ht⟩⟩ := step_records h
  · exact ⟨[.reset clk], ht, by simp [requestCount, responseCount]⟩
  · exact ⟨[], ht, by simp [requestCount, responseCount]⟩
  · exact ⟨[.response r], ht, by simp [requestCount, responseCount]⟩
  · exact ⟨[.request req res], ht, by simp [requestCount, responseCount]⟩
  · exact ⟨[.response r, .request req res], ht, by simp [requestCount, responseCount]⟩

end Sys2Proof.Machine

/-!
PROOFS. 10_state.md R17: the request each phase stands for.
-/

namespace Sys2Proof

/-! ### What the decoders read back -/

/-- Splitting a word into bytes and joining them again (R56, R57). -/
theorem be16_hi8_lo8 (v : Word) : be16 (hi8 v) (lo8 v) = v := by
  unfold be16 hi8 lo8
  ext i hi
  simp only [BitVec.getElem_or, BitVec.getElem_shiftLeft, BitVec.getElem_setWidth]
  interval_cases i <;> simp

/-- The fields of an assembled word are the parts it was joined from, so it is a configuration word and its codes are
read back (R20, R54). -/
theorem decodePayload_configWord (p : Params) (mux gain rate : Code) :
    decodePayload p (configWord p mux gain rate) = .ok (.cw mux gain rate) := by
  simp (disch := decide) only [decodePayload, isConfigWord, configWord, BitVec.extractLsb'_cast,
    BitVec.extractLsb'_append_eq_of_le, BitVec.extractLsb'_append_eq_of_add_le, Nat.reduceSub,
    BitVec.extractLsb'_eq_self, beq_self_eq_true, Bool.and_self, if_true]

/-- A write frame to a register reads back as that register and word (R51). -/
theorem decodeFrame_fw (r : Reg) (v : Word) : decodeFrame [r.ptr, hi8 v, lo8 v] 2 = .ok (.fw r v) := by
  simp [decodeFrame, withReg, be16_hi8_lo8]

/-- A read frame of a register reads back as that register (R52). -/
theorem decodeFrame_fr (r : Reg) : decodeFrame [r.ptr] 2 = .ok (.fr r) := by
  simp [decodeFrame, withReg]

end Sys2Proof

namespace Sys2Proof.Machine

/-! ### The request of a phase -/

/-- In a transaction phase, unless a reset comes, a step is the meaning of the phase's frame. -/
theorem step_frame {s : State} {i : Instr} (hx : s.phase.isXfer = true)
    (hs : ∀ clk rest, s.transport.script ≠ .reset clk :: rest) (hf : frameOf s = .ok i) : step s = exec i s := by
  simp only [step, fetch_busy (Phase.not_idle_of_xfer hx) hs, fetchRequest_xfer hx, hf]

theorem frameOf_rsPoll {s : State} (hp : s.phase = .rsPoll) : frameOf s = .ok (.fr .config) := by
  simp only [frameOf, hp, decodeFrame_fr]

theorem frameOf_rsRead {s : State} (hp : s.phase = .rsRead) : frameOf s = .ok (.fr .conversion) := by
  simp only [frameOf, hp, decodeFrame_fr]

theorem frameOf_waiRead {s : State} (hp : s.phase = .waiRead) : frameOf s = .ok .fb := by
  simp only [frameOf, hp, decodeFrame, if_true]

theorem frameOf_rsWrite {s : State} {m g r : Code} (hp : s.phase = .rsWrite) (hw : s.cfgw = configWord s.params m g r) :
    frameOf s = .ok (.cw m g r) := by
  simp only [frameOf, hp, hw, decodePayload_configWord]

theorem frameOf_regWrite {s : State} {r : Reg} {v : Word} (hp : s.phase = .regWrite)
    (ht : s.txbuf = ⟨r.ptr, hi8 v, lo8 v⟩) : frameOf s = .ok (.fw r v) := by
  simp only [frameOf, hp, ht, decodeFrame_fw]

theorem frameOf_regRead {s : State} {r : Reg} (hp : s.phase = .regRead) (ht : s.txbuf.b0 = r.ptr) :
    frameOf s = .ok (.fr r) := by
  simp only [frameOf, hp, ht, decodeFrame_fr]

/-- Settles O14: no reset in the way, the turn of a transaction phase runs its frame. -/
theorem stepRunsFrame : Obligations.StepRunsFrame := fun _ _ => step_frame

/-- Settles O15, phase by phase. -/
theorem frameOfEachPhase : Obligations.FrameOfEachPhase := fun _ =>
  ⟨frameOf_rsPoll, frameOf_rsRead, frameOf_waiRead, fun _ _ _ => frameOf_rsWrite, fun _ _ => frameOf_regWrite,
    fun _ => frameOf_regRead⟩

/-- Settles O16: in `IDLE` the turn is the host's, and with nothing presented there is none. -/
theorem idleWaits : Obligations.IdleWaits := by
  intro s hp hh
  simp only [step, fetch, hp, if_true, fetchCommand, hh]

end Sys2Proof.Machine

/-!
PROOFS. 10_state.md R22: of the word a poll reads, the block looks at the status bit alone.
-/

namespace Sys2Proof.Machine

/-- The status bit of a word received is the top bit of its first byte (R57). -/
theorem statusBit_be16 (b0 b1 : Byte) : statusBit (be16 b0 b1) = b0.getLsbD 7 := by
  have top : (be16 b0 b1).extractLsb' 15 1 = BitVec.ofBool (b0.getLsbD 7) := by
    ext i hi
    obtain rfl : i = 0 := by omega
    simp [be16]
  rw [statusBit, top]
  cases b0.getLsbD 7 <;> rfl

/-! ### After a poll, by what was read (R91, R114) -/

theorem afterPoll_ready {w : Word} {s : State} (hb : statusBit w = true) : afterPoll w s = s.moveTo .rsRead := by
  simp only [afterPoll, hb, if_true]

theorem afterPoll_uncapped {w : Word} {s : State} (hb : statusBit w = false) (hm : s.params.maxPolls = none) :
    afterPoll w s = s := by
  simp only [afterPoll, hb, hm, Bool.false_eq_true, if_false]

theorem afterPoll_below {w : Word} {s : State} {n : Nat} (hb : statusBit w = false) (hm : s.params.maxPolls = some n)
    (hn : s.polls + 1 ≠ n) : afterPoll w s = { s with polls := s.polls + 1 } := by
  simp only [afterPoll, hb, hm, hn, Bool.false_eq_true, if_false]

theorem afterPoll_limit {w : Word} {s : State} {n : Nat} (hb : statusBit w = false) (hm : s.params.maxPolls = some n)
    (hn : s.polls + 1 = n) : afterPoll w s = { s with polls := s.polls + 1 }.raise .pollLimit := by
  simp only [afterPoll, hb, hm, hn, Bool.false_eq_true, if_false, if_true]

/-- After a poll the block looks at nothing of the word but the status bit. -/
theorem afterPoll_congr {v w : Word} (h : statusBit v = statusBit w) (s : State) : afterPoll v s = afterPoll w s := by
  simp only [afterPoll, h]

/-- After a poll the block writes `PHASE` and `POLLS` and adds to the record, in the same way whatever `RXBUF` and the
record hold. -/
theorem afterPoll_frame (w : Word) (s : State) : ∃ phase polls after, ∀ rx tr,
    afterPoll w { s with rxbuf := rx, trace := tr } =
      { s with phase := phase, polls := polls, rxbuf := rx, trace := after ++ tr } := by
  cases hb : statusBit w with
  | true => exact ⟨.rsRead, s.polls, [], fun _ _ => afterPoll_ready hb⟩
  | false =>
    cases hm : s.params.maxPolls with
    | none => exact ⟨s.phase, s.polls, [], fun _ _ => afterPoll_uncapped hb hm⟩
    | some n =>
      by_cases hn : s.polls + 1 = n
      · exact ⟨.idle, s.polls + 1, [.response (.failure .pollLimit)], fun _ _ => afterPoll_limit hb hm hn⟩
      · exact ⟨s.phase, s.polls + 1, [], fun _ _ => afterPoll_below hb hm hn⟩

/-- The step of a poll that is answered `Ok`: the bytes go to `RXBUF` and the exchange is recorded. -/
theorem step_poll_ok {s : State} {b0 b1 : Byte} {rest : List Reply} (hp : s.phase = .rsPoll)
    (hs : s.transport.script = .ok b0 b1 :: rest) :
    step s = .next (afterPoll (be16 b0 b1) (((s.setTx0 0x01).answered (.xfer s.devAddr [0x01] 2) (.ok b0 b1)
      { s.transport with script := rest }).setRx b0 b1)) := by
  have ha : s.transport.ask (.xfer s.devAddr [Reg.ptr .config] 2) =
      some (.ok b0 b1, { s.transport with script := rest }) := by
    simp only [Transport.ask, hs, Transport.applySetting_xfer]
  rw [step_frame (by rw [hp]; rfl) (by simp [hs]) (frameOf_rsPoll hp)]
  simp only [exec, execFr, hp, issuesFr, beq_self_eq_true, whenIssued, if_true, rpuRead_got ha, Txn.complete, afterRead,
    State.setRx_phase, State.answered_phase, State.setTx0_phase]
  rfl

/-- A poll answered `Ok` by a script set for it, with what the bytes reach told apart from the rest of the state. -/
theorem polled_eq {s t : State} {b0 b1 : Byte} {rest : List Reply} (hp : s.phase = .rsPoll)
    (h : step { s with transport := { s.transport with script := .ok b0 b1 :: rest } } = .next t) :
    t = afterPoll (be16 b0 b1)
      { { s.setTx0 0x01 with transport := { s.transport with script := rest } } with
        rxbuf := ⟨b0, b1⟩
        trace := .request (.xfer s.devAddr [0x01] 2) (.ok [b0, b1]) :: s.trace } :=
  Host.Outcome.next.inj (h.symm.trans
    (step_poll_ok (s := { s with transport := { s.transport with script := .ok b0 b1 :: rest } }) hp rfl))

/-- Settles O39: after the poll the two states differ in `RXBUF` and the record only, and what follows does not look
at these. -/
theorem onlyStatusBitMatters : Obligations.OnlyStatusBitMatters := by
  intro s b0 b1 c0 c1 rest u v hp hbit hu hv
  have hsame : statusBit (be16 c0 c1) = statusBit (be16 b0 b1) := by
    rw [statusBit_be16, statusBit_be16, hbit]
  obtain ⟨phase, polls, after, hafter⟩ := afterPoll_frame (be16 b0 b1)
    { s.setTx0 0x01 with transport := { s.transport with script := rest } }
  have hu' := (polled_eq hp hu).trans (hafter _ _)
  have hv' := ((polled_eq hp hv).trans (afterPoll_congr hsame _)).trans (hafter _ _)
  subst hu' hv'
  exact ⟨rfl, rfl, rfl, after, rfl, rfl⟩

end Sys2Proof.Machine

/-!
PROOFS. 10_state.md R11, R12, R18: what a step does to the registers that outlive an operation.
-/

namespace Sys2Proof.Machine

/-! ### Every way a step can go -/

/-- The ways a step goes from `s`: the one case split the proofs below follow. -/
inductive Moves (s : State) : State → Prop
  /-- Nothing is presented, or a setter's request is not answered. -/
  | waits : Moves s s
  /-- A reset, presented in `IDLE` or in flight; the latter leaves no fixture. -/
  | reset (clk : Option Nat) (host : List HostInput) (tr : Transport)
      (hfix : tr.fixture = s.transport.fixture ∨ tr.fixture = .absent) :
      Moves s ({ s with host := host, transport := tr }.resetBlock clk)
  /-- A command word is refused. -/
  | refused (e : ErrorKind) (rest : List HostInput) (hp : s.phase = .idle) (he : early e) :
      Moves s ({ s with host := rest }.raise e)
  /-- An operation is accepted. -/
  | accepted (i : Instr) (rest : List HostInput) (hp : s.phase = .idle) (hc : i.isCommand = true)
      (hw : WellFormed s.params i = true) (hg : lifeGuard s.life i = none) : Moves s (ran i { s with host := rest })
  /-- A setter is answered `Err`. -/
  | setterFailed (e : TransportError) (tr : Transport) (hi : s.phase.isInit = true)
      (ha : s.transport.ask (setterOf s).1 = some (.err e, tr)) :
      Moves s ((s.answered (setterOf s).1 (.err e) tr).raise ((setterOf s).2.1 e))
  /-- A setter is answered `Ok`. -/
  | setterDone (b0 b1 : Byte) (tr : Transport) (hi : s.phase.isInit = true)
      (ha : s.transport.ask (setterOf s).1 = some (.ok b0 b1, tr)) :
      Moves s ((setterOf s).2.2 (s.answered (setterOf s).1 (.ok b0 b1) tr))
  /-- A transaction is made. -/
  | transacts {t : State} (out : List Byte) (m : Nat) (hx : s.phase.isXfer = true) (hshape : xferShape out m = true)
      (hptr : s.phase ≠ .waiRead → ∃ r, (frameSent s).b0 = Reg.ptr r) (ht : Transacts s t out m (frameSent s)) :
      Moves s t

theorem step_moves {s t : State} (h : step s = .next t) : Moves s t := by
  by_cases hp : s.phase = .idle
  · obtain ⟨-, rfl⟩ | ⟨clk, rest, -, rfl⟩ | ⟨w, rest, -, ⟨e, he, rfl⟩ | ⟨i, -, hc, hw, hg, rfl⟩⟩ := idle_cases hp h
    · exact .waits
    · exact .reset clk rest s.transport (.inl rfl)
    · exact .refused e rest hp he
    · exact .accepted i rest hp hc hw hg
  · obtain ⟨clk, rest, hs⟩ | hs := reset_or_not s
    · obtain rfl := Host.Outcome.next.inj (h.symm.trans (step_abandon hp hs))
      exact .reset clk s.host (s.transport.abandon s.phase rest) (.inr (Transport.abandon_fixture _ _ _))
    · obtain hi | hx := Phase.init_or_xfer hp
      · obtain ⟨-, rfl⟩ | ⟨e, tr, ha, rfl⟩ | ⟨b0, b1, tr, ha, rfl⟩ := init_cases hi hs h
        · exact .waits
        · exact .setterFailed e tr hi ha
        · exact .setterDone b0 b1 tr hi ha
      · obtain ⟨out, m, hshape, hptr, ht⟩ := xfer_cases hx hs h
        exact .transacts out m hx hshape hptr ht

/-! ### What the parts of a step leave alone -/

/-- Once a transaction's bytes are received, only `PHASE`, `POLLS` and the record are still written. -/
theorem onBytes_frame (p : Phase) (b0 b1 : Byte) (s : State) : ∃ phase polls trace,
    onBytes p b0 b1 s = { s with phase := phase, polls := polls, trace := trace } := by
  cases p with
  | rsWrite =>
    simp only [onBytes, startPolling]
    split <;> exact ⟨_, _, _, rfl⟩
  | rsPoll =>
    obtain ⟨phase, polls, after, h⟩ := afterPoll_frame (be16 b0 b1) s
    exact ⟨phase, polls, after ++ s.trace, h s.rxbuf s.trace⟩
  | idle | initIdleTo | initPinLow | initClock | rsRead | waiRead | regWrite | regRead => exact ⟨_, _, _, rfl⟩

/-- A transaction writes the buffers, `PHASE`, `POLLS`, the transport and the record, and no other register. -/
theorem Transacts.frame {s t : State} {out : List Byte} {m : Nat} {tx : TxBuf} (h : Transacts s t out m tx) :
    ∃ tx rx phase polls tr trace, t =
      { s with txbuf := tx, rxbuf := rx, phase := phase, polls := polls, transport := tr, trace := trace } := by
  obtain ⟨-, rfl⟩ | ⟨e, tr, -, rfl⟩ | ⟨b0, b1, tr, rx, -, rfl⟩ := h
  · exact ⟨tx, s.rxbuf, s.phase, s.polls, s.transport, s.trace, rfl⟩
  · exact ⟨tx, s.rxbuf, .idle, s.polls, tr, _, rfl⟩
  · obtain ⟨phase, polls, trace, heq⟩ := onBytes_frame s.phase b0 b1
      { State.answered { s with txbuf := tx } (.xfer s.devAddr out m) (.ok b0 b1) tr with rxbuf := rx }
    exact ⟨tx, rx, phase, polls, tr, trace, heq⟩

/-- What no step but a reset writes. -/
def State.constants (s : State) : Params × BitVec 7 × Nat := (s.params, s.devAddr, s.clkHz)

theorem ran_constants (i : Instr) (s : State) : (ran i s).constants = s.constants := by cases i <;> rfl

theorem ran_life (i : Instr) (s : State) : (ran i s).life = s.life := by cases i <;> rfl

theorem setterOf_constants (s u : State) : ((setterOf s).2.2 u).constants = u.constants := by
  unfold setterOf
  split <;> rfl

/-- The fault of every setter kills the block (R119). -/
theorem setterOf_fault_dead (s : State) (e : TransportError) (l : Life) : ((setterOf s).2.1 e).lifeAfter l = .dead := by
  unfold setterOf
  split <;> rfl

/-- An error raised before any request leaves `LIFE` alone (R119). -/
theorem early.lifeAfter {e : ErrorKind} (he : early e) (l : Life) : e.lifeAfter l = l := by
  obtain rfl | rfl | rfl := he <;> rfl

/-! ### The obligations -/

/-- Settles O20: every move but a reset keeps the three constants, and a reset records the `CLK_HZ` it sets. -/
theorem constantsKept : Obligations.ConstantsKept := by
  intro s t h
  have kept (hk : t.constants = s.constants) : t.params = s.params ∧ (s.devAddr = 0x48 → t.devAddr = 0x48) ∧
      (t.clkHz = s.clkHz ∨ t.trace = .reset t.clkHz :: s.trace) := by
    obtain ⟨hparams, haddr, hclk⟩ : t.params = s.params ∧ t.devAddr = s.devAddr ∧ t.clkHz = s.clkHz := by
      simpa [State.constants] using hk
    exact ⟨hparams, haddr.trans, .inl hclk⟩
  cases step_moves h with
  | waits => exact kept rfl
  | reset clk host tr => exact ⟨rfl, fun _ => rfl, .inr rfl⟩
  | refused e rest => exact kept rfl
  | accepted i rest => exact kept (ran_constants i { s with host := rest })
  | setterFailed e tr => exact kept rfl
  | setterDone b0 b1 tr => exact kept (setterOf_constants s (s.answered _ _ tr))
  | transacts out m hx hshape hptr ht =>
    obtain ⟨_, _, _, _, _, _, rfl⟩ := ht.frame
    exact kept rfl

/-- `LIFE` is `UNINIT` while INITIALIZE runs. -/
theorem Inv.uninit_of_init {s : State} (h : Inv s) (hi : s.phase.isInit = true) : s.life = .uninit := by
  simpa [lifeFits, hi] using (Bool.and_eq_true_iff.mp h.life_fits).1

/-- Settles O21: the moves that write `LIFE` are a reset and the two ends of INITIALIZE. -/
theorem lifeTransitions : Obligations.LifeTransitions := by
  intro s t hinv h
  cases step_moves h with
  | waits => exact .inl rfl
  | reset clk host tr => exact .inr (.inl ⟨rfl, rfl⟩)
  | refused e rest hp he => exact .inl (he.lifeAfter s.life)
  | accepted i rest => exact .inl (ran_life i { s with host := rest })
  | setterFailed e tr hi =>
    exact .inr (.inr (.inr ⟨hinv.uninit_of_init hi, hi, setterOf_fault_dead s e s.life, rfl⟩))
  | setterDone b0 b1 tr hi =>
    have hl := hinv.uninit_of_init hi
    cases hp : s.phase <;> simp only [hp, Phase.isInit, Bool.false_eq_true] at hi <;> simp only [setterOf, hp]
    case initIdleTo | initPinLow => exact .inl rfl
    case initClock => exact .inr (.inr (.inl ⟨hl, trivial, rfl, rfl⟩))
  | transacts out m hx hshape hptr ht =>
    obtain ⟨_, _, _, _, _, _, rfl⟩ := ht.frame
    exact .inl rfl

end Sys2Proof.Machine

/-!
PROOFS. 10_state.md R11, R13, R26; 60_exceptions.md R123: every step keeps the invariant.
-/

namespace Sys2Proof.Machine

/-! ### The invariant in two parts -/

/-- The part of the invariant that does not look at `PHASE`. -/
structure Steady (s : State) : Prop where
  params_wf : s.params.wf = true
  dev_addr : s.devAddr = Config.devAddr
  gain_legal : s.life = .init → gainLegal s.params s.gain = true
  level_live : s.life = .init → setupLevel s.trace = 3
  memory_wf : s.transport.fixture.wf = true
  trace_safe : safeTrace s.trace = true

/-- What a transaction phase finds ready: the word to write, a register to name, polls still to make. -/
def Sendable (s : State) : Prop :=
  match s.phase with
  | .rsWrite => ∃ ch, s.chan = Channel.index ch ∧ s.cfgw = cfgAssembleWord s.params ch s.gain s.rate
  | .rsPoll => ∀ n, s.params.maxPolls = some n → s.polls < n
  | .regWrite | .regRead => ∃ r, s.txbuf.b0 = Reg.ptr r
  | _ => True

/-- The fixture's memory is canonical, in the form `Transport.ask_fixture_wf` takes. -/
theorem Fixture.wf_iff {f : Fixture} : f.wf = true ↔ ∀ mem, f = .echo mem → mem.wf = true := by
  cases f <;> simp [Fixture.wf]

theorem levelFits_init (p : Phase) (n : Nat) : levelFits p .init n = (n == 3) := by cases p <;> rfl

theorem Inv.steady {s : State} (h : Inv s) : Steady s where
  params_wf := h.params_wf
  dev_addr := h.dev_addr
  gain_legal := h.gain_legal
  level_live hl := by simpa [hl, levelFits_init] using h.level_fits
  memory_wf := h.memory_wf
  trace_safe := h.trace_safe

/-- While a transaction runs the block is initialized (R123). -/
theorem Inv.init_of_xfer {s : State} (h : Inv s) (hx : s.phase.isXfer = true) : s.life = .init := by
  simpa [lifeFits, hx] using (Bool.and_eq_true_iff.mp h.life_fits).2

/-- Before INITIALIZE is accepted no setter has been answered since the reset. -/
theorem Inv.level_zero {s : State} (h : Inv s) (hp : s.phase = .idle) (hl : s.life = .uninit) :
    setupLevel s.trace = 0 := by
  simpa [hp, hl, levelFits] using h.level_fits

section Parts
variable {s : State} (h : Steady s)
include h

/-- In `IDLE` the rest of the invariant is that an `UNINIT` block has begun no setup. -/
theorem Steady.inv_idle (hp : s.phase = .idle) (hl : s.life = .uninit → setupLevel s.trace = 0) : Inv s where
  params_wf := h.params_wf
  dev_addr := h.dev_addr
  gain_legal := h.gain_legal
  life_fits := by rw [hp]; rfl
  level_fits := by
    rw [hp]
    cases hs : s.life with
    | uninit => simp [levelFits, hl hs]
    | init => simp [levelFits, h.level_live hs]
    | dead => rfl
  cfgw_made := by simp [hp]
  tx_names := by simp [hp]
  polls_below := by simp [hp]
  memory_wf := h.memory_wf
  trace_safe := h.trace_safe

/-- An initialized block meets the invariant whenever it is `IDLE`. -/
theorem Steady.inv_idle_live (hp : s.phase = .idle) (hl : s.life = .init) : Inv s :=
  h.inv_idle hp fun hu => absurd (hl.symm.trans hu) nofun

/-- In a phase of INITIALIZE the rest of the invariant is how far the setup has come. -/
theorem Steady.inv_init (hi : s.phase.isInit = true) (hl : s.life = .uninit)
    (hlev : levelFits s.phase .uninit (setupLevel s.trace) = true) : Inv s where
  params_wf := h.params_wf
  dev_addr := h.dev_addr
  gain_legal := h.gain_legal
  life_fits := by cases hp : s.phase <;> simp_all [Phase.isInit, Phase.isXfer, lifeFits]
  level_fits := hl ▸ hlev
  cfgw_made hp := by rw [hp] at hi; cases hi
  tx_names hp := by obtain hp | hp := hp <;> rw [hp] at hi <;> cases hi
  polls_below hp := by rw [hp] at hi; cases hi
  memory_wf := h.memory_wf
  trace_safe := h.trace_safe

/-- In a transaction phase the rest of the invariant is that the block is initialized and the transaction ready. -/
theorem Steady.inv_xfer (hx : s.phase.isXfer = true) (hl : s.life = .init) (hs : Sendable s) : Inv s where
  params_wf := h.params_wf
  dev_addr := h.dev_addr
  gain_legal := h.gain_legal
  life_fits := by cases hp : s.phase <;> simp_all [Phase.isInit, Phase.isXfer, lifeFits]
  level_fits := by rw [hl, levelFits_init, h.level_live hl]; rfl
  cfgw_made hp := by simpa [Sendable, hp] using hs
  tx_names hp := by obtain hp | hp := hp <;> simpa [Sendable, hp] using hs
  polls_below hp := by simpa [Sendable, hp] using hs
  memory_wf := h.memory_wf
  trace_safe := h.trace_safe

/-! ### The phase-independent part, operation by operation -/

/-- The fields `Steady` does not look at. -/
theorem Steady.unwatched {clkHz : Nat} {rate : Code} {phase : Phase} {chan : BitVec 2} {cfgw : Word} {txbuf : TxBuf}
    {rxbuf : RxBuf} {polls : Nat} {host : List HostInput} :
    Steady { s with
      clkHz := clkHz, rate := rate, phase := phase, chan := chan, cfgw := cfgw, txbuf := txbuf, rxbuf := rxbuf
      polls := polls, host := host } :=
  ⟨h.params_wf, h.dev_addr, h.gain_legal, h.level_live, h.memory_wf, h.trace_safe⟩

theorem Steady.finish (v : Word) : Steady (s.finish v) :=
  ⟨h.params_wf, h.dev_addr, h.gain_legal, h.level_live, h.memory_wf, h.trace_safe⟩

/-- No error brings the block to `INIT` (R119). -/
theorem Steady.raise (e : ErrorKind) : Steady (s.raise e) := by
  have live (hl : e.lifeAfter s.life = .init) : s.life = .init := by
    cases e with
    | busIdleTimeout | pinLowTimeout | clockSpeed => cases hl
    | transport | notInitialized | handleConsumed | illegalCommand | pollLimit => exact hl
  exact ⟨h.params_wf, h.dev_addr, h.gain_legal ∘ live, h.level_live ∘ live, h.memory_wf, h.trace_safe⟩

/-- A request that may be made, and that leaves an initialized block's bus configured. -/
theorem Steady.answered {req : Request} {a : Answer} {tr : Transport} (ha : s.transport.ask req = some (a, tr))
    (hm : mayRequest s.trace req = true)
    (hl : s.life = .init → setupLevel (.request req (a.result req.len) :: s.trace) = 3) :
    Steady (s.answered req a tr) where
  params_wf := h.params_wf
  dev_addr := h.dev_addr
  gain_legal := h.gain_legal
  level_live := hl
  memory_wf := Fixture.wf_iff.mpr (Transport.ask_fixture_wf (Fixture.wf_iff.mp h.memory_wf) ha)
  trace_safe := Bool.and_eq_true_iff.mpr ⟨hm, h.trace_safe⟩

/-- A transaction of one of the three shapes may be made by an initialized block, and configures nothing. -/
theorem Steady.answered_xfer {out : List Byte} {m : Nat} {a : Answer} {tr : Transport} (hl : s.life = .init)
    (hshape : xferShape out m = true) (ha : s.transport.ask (.xfer s.devAddr out m) = some (a, tr)) :
    Steady (s.answered (.xfer s.devAddr out m) a tr) :=
  h.answered ha (by simp [mayRequest, h.level_live hl, h.dev_addr, hshape]) h.level_live

/-! ### After a transaction -/

/-- `POLLS` starts below the cap, which is not 0 (R4). -/
theorem Steady.startPolling_inv (hl : s.life = .init) : Inv (startPolling s) := by
  unfold startPolling
  split
  · rename_i hm
    exact h.unwatched.inv_xfer rfl hl fun n hn => absurd (hm.symm.trans hn) nofun
  · refine h.unwatched.inv_xfer rfl hl fun n hn => Nat.pos_of_ne_zero ?_
    rintro rfl
    have hwf := h.params_wf
    simp only [Params.wf, Bool.and_eq_true, decide_eq_true_eq] at hwf
    exact hwf.2 hn

/-- A poll is counted only where the count stays below the cap (R91, R114). -/
theorem Steady.afterPoll_inv (w : Word) (hl : s.life = .init) (hp : s.phase = .rsPoll)
    (hbelow : ∀ n, s.params.maxPolls = some n → s.polls < n) : Inv (afterPoll w s) := by
  have hx : s.phase.isXfer = true := by rw [hp]; rfl
  cases hb : statusBit w with
  | true =>
    rw [afterPoll_ready hb]
    exact h.unwatched.inv_xfer rfl hl trivial
  | false =>
    cases hm : s.params.maxPolls with
    | none =>
      rw [afterPoll_uncapped hb hm]
      exact h.inv_xfer hx hl (by simpa [Sendable, hp] using hbelow)
    | some n =>
      by_cases hn : s.polls + 1 = n
      · rw [afterPoll_limit hb hm hn]
        exact (h.unwatched.raise _).inv_idle_live rfl hl
      · rw [afterPoll_below hb hm hn]
        refine h.unwatched.inv_xfer hx hl ?_
        have := hbelow n hm
        simp only [Sendable, hp, hm, Option.some.injEq, forall_eq']
        omega

/-- Once the bytes are received, READ_SINGLE goes on or the operation ends. -/
theorem Steady.onBytes_inv (b0 b1 : Byte) (hl : s.life = .init)
    (hbelow : s.phase = .rsPoll → ∀ n, s.params.maxPolls = some n → s.polls < n) : Inv (onBytes s.phase b0 b1 s) := by
  cases hp : s.phase with
  | rsWrite => exact h.startPolling_inv hl
  | rsPoll => exact h.afterPoll_inv _ hl hp (hbelow hp)
  | idle | initIdleTo | initPinLow | initClock | rsRead | waiRead | regWrite | regRead =>
    exact (h.finish _).inv_idle_live rfl hl

/-! ### Accepting an operation -/

/-- An operation the guard lets proceed leaves what its first request needs, or ends at once. -/
theorem Steady.ran_inv {i : Instr} (hlev : s.life = .uninit → setupLevel s.trace = 0) (hc : i.isCommand = true)
    (hw : WellFormed s.params i = true) (hg : lifeGuard s.life i = none) : Inv (ran i s) := by
  cases hl : s.life with
  | dead => simp [lifeGuard, hl] at hg
  | uninit =>
    cases i <;> simp only [lifeGuard, hl, reduceCtorEq] at hg
    case initialise => exact h.unwatched.inv_init rfl hl (by simp [levelFits, hlev hl])
  | init =>
    cases i with
    | initialise => simp [lifeGuard, hl] at hg
    | readSingle ch => exact h.unwatched.inv_xfer rfl hl ⟨ch, rfl, rfl⟩
    | setGain g =>
      have set : Steady { s with gain := g } :=
        ⟨h.params_wf, h.dev_addr, fun _ => hw, h.level_live, h.memory_wf, h.trace_safe⟩
      exact (set.finish 0).inv_idle_live rfl hl
    | setDataRate r =>
      have set : Steady { s with rate := r } := h.unwatched
      exact (set.finish 0).inv_idle_live rfl hl
    | getGain | getDataRate | cfgAssemble => exact (h.finish _).inv_idle_live rfl hl
    | whoAmI => exact h.unwatched.inv_xfer rfl hl trivial
    | writeRegister reg | readRegister reg => exact h.unwatched.inv_xfer rfl hl ⟨reg, rfl⟩
    | fw | fr | fb | cw => cases hc

end Parts

/-! ### A request of INITIALIZE -/

/-- Each setter is requested in its turn and with its constant (R90). -/
theorem Inv.mayRequest_setter {s : State} (h : Inv s) (hi : s.phase.isInit = true) :
    mayRequest s.trace (setterOf s).1 = true := by
  have hlev := h.level_fits
  rw [h.uninit_of_init hi] at hlev
  cases hp : s.phase <;> simp only [hp, Phase.isInit, Bool.false_eq_true] at hi <;>
    simpa [hp, levelFits, setterOf, mayRequest] using hlev

theorem Inv.steady_setter {s : State} {a : Answer} {tr : Transport} (h : Inv s) (hi : s.phase.isInit = true)
    (ha : s.transport.ask (setterOf s).1 = some (a, tr)) : Steady (s.answered (setterOf s).1 a tr) :=
  h.steady.answered ha (h.mayRequest_setter hi) fun hl => absurd ((h.uninit_of_init hi).symm.trans hl) nofun

/-- A setter answered `Ok` brings the setup one level up, and the third ends INITIALIZE. -/
theorem Inv.setterDone {s : State} {b0 b1 : Byte} {tr : Transport} (h : Inv s) (hi : s.phase.isInit = true)
    (ha : s.transport.ask (setterOf s).1 = some (.ok b0 b1, tr)) :
    Inv ((setterOf s).2.2 (s.answered (setterOf s).1 (.ok b0 b1) tr)) := by
  have hu := h.steady_setter hi ha
  have hl := h.uninit_of_init hi
  have hlev := h.level_fits
  rw [hl] at hlev
  cases hp : s.phase <;> simp only [hp, Phase.isInit, Bool.false_eq_true] at hi <;>
    simp only [setterOf, hp] at hu ⊢ <;> simp only [hp, levelFits, beq_iff_eq] at hlev
  case initIdleTo | initPinLow =>
    exact hu.unwatched.inv_init rfl hl (by simp [levelFits, setupLevel, Answer.result, hlev])
  case initClock =>
    have live : Steady { s.answered (.setClockSpeed s.clkHz) (.ok b0 b1) tr with
        gain := s.params.gainInit, rate := s.params.rateInit, life := .init } :=
      ⟨hu.params_wf, hu.dev_addr, fun _ => gainLegal_gainInit s.params,
        fun _ => by simp [setupLevel, Answer.result, hlev], hu.memory_wf, hu.trace_safe⟩
    exact (live.finish 0).inv_idle_live rfl rfl

/-! ### The step -/

/-- A reset needs nothing of the state but what it keeps of it. -/
theorem Inv.resetBlock {s : State} (h : Inv s) (clk : Option Nat) (host : List HostInput) {tr : Transport}
    (htr : tr.fixture.wf = true) : Inv ({ s with host := host, transport := tr }.resetBlock clk) :=
  Steady.inv_idle ⟨h.params_wf, rfl, nofun, nofun, htr, h.trace_safe⟩ rfl fun _ => rfl

theorem Inv.transacts {s t : State} {out : List Byte} {m : Nat} (h : Inv s) (hx : s.phase.isXfer = true)
    (hshape : xferShape out m = true) (hptr : s.phase ≠ .waiRead → ∃ r, (frameSent s).b0 = Reg.ptr r)
    (ht : Transacts s t out m (frameSent s)) : Inv t := by
  have hl := h.init_of_xfer hx
  have sent : Steady { s with txbuf := frameSent s } := h.steady.unwatched
  obtain ⟨-, rfl⟩ | ⟨e, tr, ha, rfl⟩ | ⟨b0, b1, tr, rx, ha, rfl⟩ := ht
  · have names (hp : s.phase = .regWrite ∨ s.phase = .regRead) : ∃ r, (frameSent s).b0 = Reg.ptr r :=
      hptr (by obtain hp | hp := hp <;> simp [hp])
    exact { h with tx_names := names }
  · exact ((sent.answered_xfer hl hshape ha).raise _).inv_idle_live rfl hl
  · have received : Steady { State.answered { s with txbuf := frameSent s } _ (.ok b0 b1) tr with rxbuf := rx } :=
      (sent.answered_xfer hl hshape ha).unwatched
    exact received.onBytes_inv b0 b1 hl h.polls_below

/-- Settles O55, move by move. -/
theorem stepKeepsInvariant : Obligations.StepKeepsInvariant := by
  intro s t h hstep
  cases step_moves hstep with
  | waits => exact h
  | reset clk host tr hfix =>
    obtain hfix | hfix := hfix
    · exact h.resetBlock clk host (hfix ▸ h.memory_wf)
    · exact h.resetBlock clk host (by rw [hfix]; rfl)
  | refused e rest hp he =>
    exact (h.steady.unwatched.raise e).inv_idle rfl fun hl => h.level_zero hp (he.lifeAfter s.life ▸ hl)
  | accepted i rest hp hc hw hg =>
    exact Steady.ran_inv (s := { s with host := rest }) h.steady.unwatched (h.level_zero hp) hc hw hg
  | setterFailed e tr hi ha =>
    refine ((h.steady_setter hi ha).raise _).inv_idle rfl fun hl => ?_
    exact absurd ((setterOf_fault_dead s e s.life).symm.trans hl) nofun
  | setterDone b0 b1 tr hi ha => exact h.setterDone hi ha
  | transacts out m hx hshape hptr ht => exact h.transacts hx hshape hptr ht

end Sys2Proof.Machine

/-!
PROOFS. 20_memory.md R31: while the transport does not answer, the block waits with its frame in `TXBUF`; R33, R34: with
the invariant there is a frame to send, so that no step stops.
-/

namespace Sys2Proof.Machine

/-- A setter sends no byte. -/
theorem frameSent_init {s : State} (hi : s.phase.isInit = true) : frameSent s = s.txbuf := by
  cases hp : s.phase <;> simp only [hp, Phase.isInit, Bool.false_eq_true] at hi <;> simp only [frameSent, hp]

/-- Settles O17: of the three things a request can come to only the wait is left, and it writes `TXBUF` alone. -/
theorem requestBlocks : Obligations.RequestBlocks := by
  intro s t hp hs hblocked h
  obtain hi | hx := Phase.init_or_xfer hp
  · obtain ⟨-, rfl⟩ | ⟨e, tr, ha, -⟩ | ⟨b0, b1, tr, ha, -⟩ := init_cases hi hs h
    · rw [frameSent_init hi]
    · exact absurd ((hblocked _).symm.trans ha) nofun
    · exact absurd ((hblocked _).symm.trans ha) nofun
  · obtain ⟨out, m, -, -, ht⟩ := xfer_cases hx hs h
    obtain ⟨-, rfl⟩ | ⟨e, tr, ha, -⟩ | ⟨b0, b1, tr, rx, ha, -⟩ := ht
    · rfl
    · exact absurd ((hblocked _).symm.trans ha) nofun
    · exact absurd ((hblocked _).symm.trans ha) nofun

/-! ### No step stops -/

/-- In `IDLE` a command word that decodes is the turn's instruction. -/
theorem step_command {s : State} {w : Command} {rest : List HostInput} {i : Instr} (hp : s.phase = .idle)
    (hh : s.host = .command w :: rest) (hd : decodeCommand w = .ok i) : step s = exec i { s with host := rest } := by
  simp only [step, fetch, hp, if_true, fetchCommand, hh, hd]

/-- In `IDLE` every input of the host, or its absence, leads to a next state. -/
theorem step_idle_next {s : State} (hp : s.phase = .idle) : ∃ t, step s = .next t := by
  cases hh : s.host with
  | nil => exact ⟨s, idleWaits s hp hh⟩
  | cons input rest =>
    cases input with
    | reset clk =>
      exact ⟨{ s with host := rest }.resetBlock clk, by simp only [step, fetch, hp, if_true, fetchCommand, hh]⟩
    | command w =>
      cases hd : decodeCommand w with
      | ok i => exact step_command hp hh hd ▸ exec_next i _
      | error e =>
        exact ⟨{ s with host := rest }.raise .illegalCommand,
          by simp only [step, fetch, hp, if_true, fetchCommand, hh, hd]⟩

/-- The configuration write has a frame whatever `CFGW` holds (R100). -/
theorem frameOf_rsWrite_ok {s : State} (hp : s.phase = .rsWrite) : ∃ i, frameOf s = .ok i := by
  simp only [frameOf, hp]
  cases decodePayload s.params s.cfgw with
  | ok i => exact ⟨i, rfl⟩
  | error e => exact ⟨.fw .config s.cfgw, rfl⟩

/-- Every transaction phase has a frame to send: a frame taken from `TXBUF` names a register (R34). -/
theorem Inv.frameOf_ok {s : State} (h : Inv s) (hx : s.phase.isXfer = true) : ∃ i, frameOf s = .ok i := by
  cases hp : s.phase <;> simp only [hp, Phase.isXfer, Bool.false_eq_true] at hx
  case rsWrite => exact frameOf_rsWrite_ok hp
  case rsPoll => exact ⟨_, frameOf_rsPoll hp⟩
  case rsRead => exact ⟨_, frameOf_rsRead hp⟩
  case waiRead => exact ⟨_, frameOf_waiRead hp⟩
  case regWrite =>
    obtain ⟨r, hr⟩ := h.tx_names (.inl hp)
    have htx : s.txbuf = ⟨r.ptr, hi8 (be16 s.txbuf.b1 s.txbuf.b2), lo8 (be16 s.txbuf.b1 s.txbuf.b2)⟩ := by
      rw [frame_again, ← hr]
    exact ⟨_, frameOf_regWrite hp htx⟩
  case regRead =>
    obtain ⟨r, hr⟩ := h.tx_names (.inr hp)
    exact ⟨_, frameOf_regRead hp hr⟩

/-- Settles O56: the one fault needs a transaction phase without a frame, which the invariant rules out. -/
theorem invariantNeverStops : Obligations.InvariantNeverStops := by
  intro s h
  by_cases hp : s.phase = .idle
  · exact step_idle_next hp
  · obtain ⟨clk, rest, hs⟩ | hs := reset_or_not s
    · exact ⟨_, step_abandon hp hs⟩
    · obtain hi | hx := Phase.init_or_xfer hp
      · exact ⟨_, step_init hi hs⟩
      · obtain ⟨i, hf⟩ := h.frameOf_ok hx
        exact step_frame hx hs hf ▸ exec_next i s

end Sys2Proof.Machine

/-!
PROOFS. 20_memory.md R45: a setting is seen by the next sample with no step between.
-/

namespace Sys2Proof.Machine

theorem ran_host (i : Instr) (s : State) : (ran i s).host = s.host := by cases i <;> rfl

/-- A command that is well formed and that the guard lets proceed runs in the step that takes it. -/
theorem step_accepted {s : State} {w : Command} {rest : List HostInput} {i : Instr} (hp : s.phase = .idle)
    (hh : s.host = .command w :: rest) (hd : decodeCommand w = .ok i) (hw : WellFormed s.params i = true)
    (hg : lifeGuard s.life i = none) : step s = .next (ran i { s with host := rest }) := by
  rw [step_command hp hh hd, exec_command (decodeCommand_isCommand hd)]
  exact accept_run hp hw hg

/-- An operation that ends at once and a READ_SINGLE behind it: two steps run the one and then the other. -/
theorem steps_two_sample {s : State} {w w' : Command} {i : Instr} {ch : Channel} {rest : List HostInput}
    (hp : s.phase = .idle) (hl : s.life = .init) (hh : s.host = .command w :: .command w' :: rest)
    (hd : decodeCommand w = .ok i) (hd' : decodeCommand w' = .ok (.readSingle ch))
    (hw : WellFormed s.params i = true) (hg : lifeGuard s.life i = none)
    (hidle : (ran i { s with host := .command w' :: rest }).phase = .idle) :
    steps 2 s = .next (ran (.readSingle ch) { ran i { s with host := .command w' :: rest } with host := rest }) := by
  rw [steps_succ (step_accepted hp hh hd hw hg)]
  exact steps_succ (step_accepted hidle (ran_host _ _) hd' rfl (by rw [ran_life, hl]; rfl))

/-- Settles O32: the READ_SINGLE runs in the state the setting leaves, and neither makes a request. -/
theorem settingsSeenByNextSample : Obligations.SettingsSeenByNextSample := by
  intro s w w' i ch rest hp hl hh hd hd'
  constructor
  · rintro g rfl hlegal
    exact ⟨_, steps_two_sample hp hl hh hd hd' hlegal (by rw [hl]; rfl) rfl, rfl, rfl, rfl⟩
  · rintro r rfl
    exact ⟨_, steps_two_sample hp hl hh hd hd' rfl (by rw [hl]; rfl) rfl, rfl, rfl, rfl⟩

end Sys2Proof.Machine

/-!
PROOFS. 20_memory.md R46: what the echoing transport's memory holds after a write, and which frames write it.
-/

namespace Sys2Proof.Machine

/-! ### Reading the canonical form -/

/-- A pointer below the bound of a canonical memory is not listed. -/
theorem Memory.read_of_lt {m : Memory} {lo p : Nat} (hm : Memory.wfFrom lo m = true) (hp : p < lo) :
    Memory.read m p = Memory.unlisted := by
  induction m generalizing lo with
  | nil => rfl
  | cons entry rest ih =>
    obtain ⟨a, w⟩ := entry
    simp only [Memory.wfFrom, Bool.and_eq_true, decide_eq_true_eq] at hm
    obtain ⟨⟨hlo, -⟩, hrest⟩ := hm
    rw [Memory.read, if_neg (by omega)]
    exact ih hrest (by omega)

/-- An entry put in front of a memory that does not list its pointer. That 0 is not stored shows in no read. -/
theorem Memory.read_cons {m : Memory} {p : Nat} (v : Word) (q : Nat) (hp : Memory.read m p = Memory.unlisted) :
    Memory.read (Memory.cons p v m) q = if q = p then v else Memory.read m q := by
  unfold Memory.cons
  split
  · rename_i hv
    split
    · rename_i hq
      rw [hq, hp, hv]
    · rfl
  · simp only [Memory.read, eq_comm]

/-- R46 above any bound, by induction on the entries: the write goes in front, replaces the front, or goes further. -/
theorem Memory.read_write {m : Memory} {lo : Nat} (p q : Nat) (v : Word) (hm : Memory.wfFrom lo m = true) :
    Memory.read (Memory.write m p v) q = if q = p then v else Memory.read m q := by
  induction m generalizing lo with
  | nil => exact Memory.read_cons v q rfl
  | cons entry rest ih =>
    obtain ⟨a, w⟩ := entry
    have hall := hm
    simp only [Memory.wfFrom, Bool.and_eq_true, decide_eq_true_eq] at hm
    obtain ⟨⟨-, hw⟩, hrest⟩ := hm
    rcases Nat.lt_trichotomy p a with hlt | rfl | hgt
    · rw [Memory.write, if_pos hlt]
      refine Memory.read_cons v q (Memory.read_of_lt (lo := a) ?_ hlt)
      simp [Memory.wfFrom, hw, hrest]
    · rw [Memory.write, if_neg (Nat.lt_irrefl p), if_pos rfl,
        Memory.read_cons v q (Memory.read_of_lt hrest (Nat.lt_succ_self p))]
      split
      · rfl
      · rename_i hq
        rw [Memory.read, if_neg (Ne.symm hq)]
    · rw [Memory.write, if_neg (by omega), if_neg (by omega), Memory.read, Memory.read, ih hrest]
      split
      · rw [if_neg (by omega)]
      · rfl

/-- Settles O48: the canonical form is the one above the bound 0. -/
theorem echoReadAfterWrite : Obligations.EchoReadAfterWrite :=
  fun _ p q v hm => Memory.read_write p q v hm

/-! ### A transaction against the echoing transport -/

/-- With no script left the echoing transport answers, and what it keeps is its memory after the request. -/
theorem Transport.ask_echo {t : Transport} {m m' : Memory} {req : Request} {a : Answer} (hs : t.script = [])
    (hf : t.fixture = .echo m) (he : echoAnswer m req = some (a, m')) :
    ∃ tr, t.ask req = some (a, tr) ∧ tr.fixture = .echo m' := by
  refine ⟨_, ?_, Transport.settle_fixture { t with script := [], fixture := .echo m' } req a⟩
  simp only [Transport.ask, hs, Transport.askFixture, hf, Fixture.answer, he]

/-- A transaction that is answered leaves the transport as the answer does. -/
theorem Transacts.transport {s t : State} {out : List Byte} {m : Nat} {tx : TxBuf} {a : Answer} {tr : Transport}
    (h : Transacts s t out m tx) (ha : s.transport.ask (.xfer s.devAddr out m) = some (a, tr)) : t.transport = tr := by
  obtain ⟨hn, -⟩ | ⟨e, tr', he, rfl⟩ | ⟨b0, b1, tr', rx, hok, rfl⟩ := h
  · exact absurd (hn.symm.trans ha) nofun
  · exact congrArg Prod.snd (Option.some.inj (he.symm.trans ha))
  · obtain ⟨_, _, _, heq⟩ := onBytes_frame s.phase b0 b1
      { State.answered { s with txbuf := tx } (.xfer s.devAddr out m) (.ok b0 b1) tr' with rxbuf := rx }
    rw [heq]
    exact congrArg Prod.snd (Option.some.inj (hok.symm.trans ha))

/-- Against the echoing transport a transaction leaves the memory its request does. -/
theorem Transacts.echo {s t : State} {out : List Byte} {n : Nat} {tx : TxBuf} {m m' : Memory} {a : Answer}
    (h : Transacts s t out n tx) (hs : s.transport.script = []) (hf : s.transport.fixture = .echo m)
    (he : echoAnswer m (.xfer s.devAddr out n) = some (a, m')) : t.transport.fixture = .echo m' := by
  obtain ⟨tr, hask, htr⟩ := Transport.ask_echo hs hf he
  rw [h.transport hask, htr]

/-! ### The frames that write and the frames that read -/

/-- The steps of R80 make the word whose fields R20 lists: it decodes, and what decodes is what the CFS makes. -/
theorem assemble_eq_configWord (p : Params) (mux gain rate : Code) :
    assemble p mux gain rate = configWord p mux gain rate := by
  obtain ⟨_, _, _, hi, hw⟩ := decodePayload_cw (decodePayload_configWord p mux gain rate)
  cases hi
  exact hw

/-- A frame that writes a word, in a phase that sends it, is the transaction of the write frame. -/
theorem transacts_of_writesWord {s t : State} {i : Instr} {reg : Reg} {v : Word} (h : WritesWord s i reg v)
    (ht : exec i s = .next t) : Transacts s t [reg.ptr, hi8 v, lo8 v] 2 ⟨reg.ptr, hi8 v, lo8 v⟩ := by
  obtain ⟨hp, rfl⟩ | ⟨hp, rfl, rfl | ⟨m, g, r, rfl, rfl⟩⟩ := h
  · simp only [exec, execFw, hp, issuesFw, whenIssued, if_true] at ht
    exact transacts_write (.inr hp) ht.symm
  · simp only [exec, execFw, hp, issuesFw, beq_self_eq_true, whenIssued, if_true] at ht
    exact transacts_write (.inl hp) ht.symm
  · simp only [exec, execCw, hp, beq_self_eq_true, whenIssued, if_true, assemble_eq_configWord] at ht
    exact transacts_write (.inl hp) ht.symm

/-- A read frame, in a phase that sends it, is its transaction. -/
theorem transacts_of_fr {s t : State} {reg : Reg} (hp : s.phase = .rsPoll ∨ s.phase = .rsRead ∨ s.phase = .regRead)
    (hi : issuesFr reg s.phase = true) (ht : exec (.fr reg) s = .next t) :
    Transacts s t [reg.ptr] 2 { s.txbuf with b0 := reg.ptr } := by
  simp only [exec, execFr, hi, whenIssued, if_true] at ht
  exact transacts_read hp ht.symm

/-- A frame that reads, in a phase that sends it, is a transaction the echoing transport stores nothing for. -/
theorem transacts_of_reads {s t : State} {i : Instr} (h : Reads s i) (ht : exec i s = .next t) :
    ∃ out n tx, Transacts s t out n tx ∧ ∀ m, ∃ a, echoAnswer m (.xfer s.devAddr out n) = some (a, m) := by
  obtain ⟨hp, reg, rfl⟩ | ⟨hp, rfl⟩ | ⟨hp, rfl⟩ | ⟨hp, rfl⟩ := h
  · exact ⟨_, _, _, transacts_of_fr (.inr (.inr hp)) (by rw [hp]; rfl) ht, fun _ => ⟨_, rfl⟩⟩
  · exact ⟨_, _, _, transacts_of_fr (.inl hp) (by rw [hp]; rfl) ht, fun _ => ⟨_, rfl⟩⟩
  · exact ⟨_, _, _, transacts_of_fr (.inr (.inl hp)) (by rw [hp]; rfl) ht, fun _ => ⟨_, rfl⟩⟩
  · simp only [exec, execFb, hp, beq_self_eq_true, whenIssued, if_true] at ht
    exact ⟨_, _, _, transacts_byte hp ht.symm, fun _ => ⟨_, rfl⟩⟩

/-- Settles O49: a write frame's memory is the old one written at the pointer with the word whose bytes it sent, and a
read frame's is the old one. -/
theorem echoStoresOnlyWritten : Obligations.EchoStoresOnlyWritten := by
  intro s m hm hs hf
  constructor
  · intro i reg v hw
    obtain ⟨t, ht⟩ := exec_next i s
    have stored : t.transport.fixture = .echo (Memory.write m (Reg.ptr reg).toNat v) :=
      (transacts_of_writesWord hw ht).echo hs hf (a := .ok (hi8 v) (lo8 v)) (by simp only [echoAnswer, be16_hi8_lo8])
    refine ⟨t, _, ht, stored, ?_, fun q hq => ?_⟩
    · rw [Memory.read_write _ _ v hm, if_pos rfl]
    · rw [Memory.read_write _ q v hm, if_neg hq]
  · intro i hr
    obtain ⟨t, ht⟩ := exec_next i s
    obtain ⟨out, n, tx, htx, hecho⟩ := transacts_of_reads hr ht
    obtain ⟨a, ha⟩ := hecho m
    exact ⟨t, ht, htx.echo hs hf ha⟩

end Sys2Proof.Machine

/-!
PROOFS. 30_encoding.md: what decodes and what it encodes as (R51 to R56), and the command words that are refused (R59 to
R62).
-/

namespace Sys2Proof

/-! ### The fields of a command word (R55) -/

@[simp] theorem cmdOp_commandWord (op a : BitVec 4) (v : Word) : cmdOp (commandWord op a v) = op := by
  simp (disch := decide) only [cmdOp, commandWord, BitVec.extractLsb'_cast, BitVec.extractLsb'_append_eq_of_le,
    Nat.reduceSub, BitVec.extractLsb'_eq_self]

/-- The bits of a command word from 16 up are those of `a`, as far as `a` goes. -/
theorem extract_commandWord (op a : BitVec 4) (v : Word) {k n : Nat} (h : k + n ≤ 4) :
    (commandWord op a v).extractLsb' (16 + k) n = a.extractLsb' k n := by
  rw [commandWord, BitVec.extractLsb'_cast, BitVec.extractLsb'_append_eq_of_le (by omega), Nat.add_sub_cancel_left,
    BitVec.extractLsb'_append_eq_of_add_le (by omega)]

@[simp] theorem cmdA_commandWord (op a : BitVec 4) (v : Word) : cmdA (commandWord op a v) = a :=
  (extract_commandWord op a v (k := 0) (by decide)).trans BitVec.extractLsb'_eq_self

@[simp] theorem cmdSel_commandWord (op a : BitVec 4) (v : Word) :
    cmdSel (commandWord op a v) = a.extractLsb' 0 2 :=
  extract_commandWord op a v (k := 0) (by decide)

@[simp] theorem cmdCode_commandWord (op a : BitVec 4) (v : Word) :
    cmdCode (commandWord op a v) = a.extractLsb' 0 3 :=
  extract_commandWord op a v (k := 0) (by decide)

@[simp] theorem cmdV_commandWord (op a : BitVec 4) (v : Word) : cmdV (commandWord op a v) = v := by
  simp (disch := decide) only [cmdV, commandWord, BitVec.extractLsb'_cast, BitVec.extractLsb'_append_eq_of_add_le,
    BitVec.extractLsb'_eq_self]

/-- Every command word is made of its three fields. -/
theorem exists_commandWord (w : Command) : ∃ op a v, w = commandWord op a v := by
  refine ⟨cmdOp w, cmdA w, cmdV w, ?_⟩
  have joined : cmdOp w ++ cmdA w ++ cmdV w = w.extractLsb' 0 24 := by
    rw [cmdOp, cmdA, cmdV, BitVec.extractLsb'_append_extractLsb'_eq_extractLsb' (by rfl),
      BitVec.extractLsb'_append_extractLsb'_eq_extractLsb' (by rfl)]
  rw [commandWord, joined, BitVec.extractLsb'_eq_self, BitVec.cast_eq]

theorem commandWord_inj {op op' a a' : BitVec 4} {v v' : Word} :
    commandWord op a v = commandWord op' a' v' ↔ op = op' ∧ a = a' ∧ v = v' := by
  constructor
  · intro h
    exact ⟨by simpa using congrArg cmdOp h, by simpa using congrArg cmdA h, by simpa using congrArg cmdV h⟩
  · rintro ⟨rfl, rfl, rfl⟩
    rfl

theorem commandWord_and (op op' a a' : BitVec 4) (v v' : Word) :
    commandWord op a v &&& commandWord op' a' v' = commandWord (op &&& op') (a &&& a') (v &&& v') := by
  simp only [commandWord, BitVec.cast_eq]
  rw [← BitVec.and_append, ← BitVec.and_append]

/-! ### The bits that must be 0 (R61), as masks of `a` -/

@[simp] theorem zeroAV_commandWord (op a : BitVec 4) (v : Word) :
    zeroAV (commandWord op a v) = true ↔ a = 0#4 ∧ v = 0#16 := by
  simp [zeroAV]

@[simp] theorem zeroA32_commandWord (op a : BitVec 4) (v : Word) :
    zeroA32 (commandWord op a v) = true ↔ a &&& 0xC#4 = 0#4 := by
  have masked : ∀ a : BitVec 4, a.extractLsb' 2 2 = 0 ↔ a &&& 0xC#4 = 0#4 := by decide
  rw [zeroA32, extract_commandWord op a v (k := 2) (by decide), beq_iff_eq, masked]

@[simp] theorem zeroA3_commandWord (op a : BitVec 4) (v : Word) :
    zeroA3 (commandWord op a v) = true ↔ a &&& 0x8#4 = 0#4 := by
  have masked : ∀ a : BitVec 4, a.extractLsb' 3 1 = 0 ↔ a &&& 0x8#4 = 0#4 := by decide
  rw [zeroA3, extract_commandWord op a v (k := 3) (by decide), beq_iff_eq, masked]

@[simp] theorem ifZero_eq_ok {z : Bool} {i j : Instr} : ifZero z i = .ok j ↔ z = true ∧ i = j := by
  cases z <;> simp [ifZero]

@[simp] theorem ifZero_eq_error {z : Bool} {i : Instr} : (∃ e, ifZero z i = .error e) ↔ ¬ z = true := by
  cases z <;> simp [ifZero]

/-! ### A two-bit selector or a three-bit code as `a` -/

@[simp] theorem setWidth_sel_mask (c : BitVec 2) : c.setWidth 4 &&& 0xC#4 = 0#4 := by revert c; decide

@[simp] theorem extract_setWidth_sel (c : BitVec 2) : (c.setWidth 4).extractLsb' 0 2 = c := by revert c; decide

theorem setWidth_extract_sel {a : BitVec 4} (h : a &&& 0xC#4 = 0#4) : (a.extractLsb' 0 2).setWidth 4 = a := by
  revert a; decide

@[simp] theorem setWidth_code_mask (c : Code) : c.setWidth 4 &&& 0x8#4 = 0#4 := by revert c; decide

@[simp] theorem extract_setWidth_code (c : Code) : (c.setWidth 4).extractLsb' 0 3 = c := by revert c; decide

theorem setWidth_extract_code {a : BitVec 4} (h : a &&& 0x8#4 = 0#4) : (a.extractLsb' 0 3).setWidth 4 = a := by
  revert a; decide

/-! ### The bytes of a word (R56) -/

@[simp] theorem hi8_be16 (a b : Byte) : hi8 (be16 a b) = a := by
  injection Machine.frame_again 0 a b

@[simp] theorem lo8_be16 (a b : Byte) : lo8 (be16 a b) = b := by
  injection Machine.frame_again 0 a b

/-! ### Decoding an encoding -/

/-- Settles O1, by the kind of operand: none, a channel or a register in `a`, a code in `a`, and the frames and the
configuration word, which have their own decoders. -/
theorem decodeOfEncode : Obligations.DecodeOfEncode := by
  intro p i
  cases i with
  | initialise | getGain | getDataRate | whoAmI | fb => rfl
  | readSingle | cfgAssemble | writeRegister | readRegister => simp [encode, decode, decodeCommand]
  | setGain | setDataRate => simp [encode, decode, decodeCommand]
  | fw reg v => exact decodeFrame_fw reg v
  | fr reg => exact decodeFrame_fr reg
  | cw mux gain rate => exact decodePayload_configWord p mux gain rate

/-! ### Encoding what was decoded -/

theorem eq_ofNat_of_toNat_eq {w n : Nat} {x : BitVec w} (h : x.toNat = n) : x = BitVec.ofNat w n := by
  rw [← h, BitVec.ofNat_toNat, BitVec.setWidth_eq]

/-- The opcode fixes the operation, and with the bits that must be 0 its operand takes up the rest of the word. The
cases are grouped by those bits: `a` and `v`, `a[3:2]` and `v`, `a[3]` and `v`, `a[3:2]` alone. -/
theorem encode_of_decodeCommand (p : Params) {w : Command} {i : Instr} (h : decodeCommand w = .ok i) :
    encode p i = .command w := by
  obtain ⟨op, a, v, rfl⟩ := exists_commandWord w
  simp only [decodeCommand, cmdOp_commandWord] at h
  split at h
  case h_1 hop | h_4 hop | h_6 hop | h_7 hop =>
    obtain rfl := eq_ofNat_of_toNat_eq hop
    obtain ⟨⟨rfl, rfl⟩, rfl⟩ : (a = 0#4 ∧ v = 0#16) ∧ _ = i := by simpa using h
    rfl
  case h_2 hop | h_8 hop | h_10 hop =>
    obtain rfl := eq_ofNat_of_toNat_eq hop
    obtain ⟨⟨ha, rfl⟩, rfl⟩ : (a &&& 0xC#4 = 0#4 ∧ v = 0#16) ∧ _ = i := by simpa using h
    simp [encode, setWidth_extract_sel ha]
  case h_3 hop | h_5 hop =>
    obtain rfl := eq_ofNat_of_toNat_eq hop
    obtain ⟨⟨ha, rfl⟩, rfl⟩ : (a &&& 0x8#4 = 0#4 ∧ v = 0#16) ∧ _ = i := by simpa using h
    simp [encode, setWidth_extract_code ha]
  case h_9 hop =>
    obtain rfl := eq_ofNat_of_toNat_eq hop
    obtain ⟨ha, rfl⟩ : a &&& 0xC#4 = 0#4 ∧ _ = i := by simpa using h
    simp [encode, setWidth_extract_sel ha]
  case h_11 => cases h

/-- A pointer byte that decodes is the one its register has (R33, R34), and the word's bytes are the two joined. -/
theorem encode_of_decodeFrame (p : Params) {out : List Byte} {m : Nat} {i : Instr} (h : decodeFrame out m = .ok i) :
    encode p i = .frame out m := by
  unfold decodeFrame at h
  split at h
  · obtain ⟨r, hr, rfl⟩ := Machine.decodeFrame_write h
    rw [encode, Reg.ptr_of_ofPtr hr, hi8_be16, lo8_be16]
  · obtain ⟨r, hr, rfl⟩ := Machine.decodeFrame_read h
    rw [encode, Reg.ptr_of_ofPtr hr]
  · split at h
    next hptr =>
      cases h
      rw [encode, hptr]
    next => cases h
  · cases h

theorem encode_of_decodePayload {p : Params} {w : Word} {i : Instr} (h : decodePayload p w = .ok i) :
    encode p i = .payload w := by
  obtain ⟨m, g, r, rfl, hw⟩ := Machine.decodePayload_cw h
  rw [encode, ← Machine.assemble_eq_configWord, hw]

/-- Settles O2, in each of the three spaces. -/
theorem encodeOfDecode : Obligations.EncodeOfDecode := by
  intro p e i h
  cases e with
  | command w => exact encode_of_decodeCommand p h
  | frame out m => exact encode_of_decodeFrame p h
  | payload w => exact encode_of_decodePayload h

/-! ### The words the command decoder refuses (R59 to R61) -/

/-- The CMD rows of the opcode table by fields: the opcode, and the bits of `a` and `v` that must be 0. -/
theorem commandRows_eq : commandRows =
    [(commandWord 0x0 0 0, commandWord 0xF 0xF 0xFFFF), (commandWord 0x1 0 0, commandWord 0xF 0xC 0xFFFF),
     (commandWord 0x2 0 0, commandWord 0xF 0x8 0xFFFF), (commandWord 0x3 0 0, commandWord 0xF 0xF 0xFFFF),
     (commandWord 0x4 0 0, commandWord 0xF 0x8 0xFFFF), (commandWord 0x5 0 0, commandWord 0xF 0xF 0xFFFF),
     (commandWord 0x6 0 0, commandWord 0xF 0xF 0xFFFF), (commandWord 0x7 0 0, commandWord 0xF 0xC 0xFFFF),
     (commandWord 0x8 0 0, commandWord 0xF 0xC 0), (commandWord 0x9 0 0, commandWord 0xF 0xC 0xFFFF)] := by rfl

/-- A word matches a row when its opcode is the row's and the bits under the masks are 0. -/
theorem commandWord_matches (op a k m : BitVec 4) (v n : Word) :
    commandWord op a v &&& commandWord 0xF m n = commandWord k 0 0 ↔
      op.toNat = k.toNat ∧ a &&& m = 0 ∧ v &&& n = 0 := by
  have hop : op &&& 0xF = op := BitVec.and_allOnes
  rw [commandWord_and, commandWord_inj, hop, BitVec.toNat_eq]

/-- Settles O4, by opcode: of the ten rows only the opcode's own can match, and its mask shows the bits the decoder
checks. A reserved opcode has no row. -/
theorem refusedWordsMatchNoRow : Obligations.RefusedWordsMatchNoRow := by
  intro w
  obtain ⟨op, a, v, rfl⟩ := exists_commandWord w
  have ha : a &&& 0xF = a := BitVec.and_allOnes
  have hv : v &&& 0xFFFF = v := BitVec.and_allOnes
  simp only [commandRows_eq, List.forall_mem_cons, ne_eq, commandWord_matches, ha, hv]
  unfold decodeCommand
  simp only [cmdOp_commandWord]
  split
  case h_11 => simp_all
  all_goals
    rename_i hop
    simp [hop]

theorem decodeCommand_reserved {w : Command} (h : 0xA ≤ (cmdOp w).toNat) :
    decodeCommand w = .error .reservedOpcode := by
  unfold decodeCommand
  split
  case h_11 => rfl
  all_goals omega

/-- A legal gain code is the code of one of the six variants (R58, R62). -/
theorem gainLegal_iff {p : Params} {g : Code} : gainLegal p g = true ↔ ∃ i : Fin 6, p.gainCode[i] = g := by
  simp [gainLegal, Vector.mem_iff_getElem, Fin.exists_iff]

end Sys2Proof

namespace Sys2Proof.Machine

/-! ### The refusal `IllegalCommand` (R60 to R62) -/

/-- In `IDLE` it adds its response to the record and leaves every register as it is. -/
theorem raise_illegalCommand {s : State} (hp : s.phase = .idle) :
    s.raise .illegalCommand = { s with trace := .response ⟨0, 7, 0, none⟩ :: s.trace } := by
  simp only [State.raise, hp]
  rfl

/-- A command word that does not decode is taken and refused. -/
theorem step_undecodable {s : State} {w : Command} {rest : List HostInput} {e : DecodeError} (hp : s.phase = .idle)
    (hh : s.host = .command w :: rest) (hd : decodeCommand w = .error e) :
    step s = .next { s with host := rest, trace := .response ⟨0, 7, 0, none⟩ :: s.trace } := by
  have refused : step s = .next ({ s with host := rest }.raise .illegalCommand) := by
    simp only [step, fetch, hp, if_true, fetchCommand, hh, hd]
  rw [refused, raise_illegalCommand (s := { s with host := rest }) hp]

/-- An operation that is not well formed is refused in every lifecycle state. -/
theorem exec_illformed {i : Instr} {s : State} (hc : i.isCommand = true) (hp : s.phase = .idle)
    (hw : ¬ WellFormed s.params i = true) :
    exec i s = .next { s with trace := .response ⟨0, 7, 0, none⟩ :: s.trace } := by
  rw [exec_command hc, accept, if_pos hp, if_neg hw, raise_illegalCommand hp]

/-- Settles O5: a reserved opcode does not decode. -/
theorem reservedOpcodeRefused : Obligations.ReservedOpcodeRefused :=
  fun _ _ _ hp hh hop => step_undecodable hp hh (decodeCommand_reserved hop)

/-- Settles O6: a word that matches no row does not decode, whatever its opcode. -/
theorem strayBitRefused : Obligations.StrayBitRefused := by
  intro s w rest hp hh _ hrows
  obtain ⟨e, hd⟩ := (refusedWordsMatchNoRow w).mpr hrows
  exact step_undecodable hp hh hd

/-- Settles O7: SET_GAIN with such a code is not well formed. The default codes are finitely many. -/
theorem illegalGainCodeRefused : Obligations.IllegalGainCodeRefused := by
  refine ⟨fun s g hp hg => exec_illformed rfl hp fun hlegal => ?_, by decide⟩
  obtain ⟨i, hi⟩ := gainLegal_iff.mp hlegal
  exact hg i hi

/-- Settles O8. The encoder's bytes of a write frame are those of the statement by definition. -/
theorem byteOrderInverse : Obligations.ByteOrderInverse :=
  ⟨fun _ _ _ => rfl, be16_hi8_lo8, fun a b => ⟨hi8_be16 a b, lo8_be16 a b, statusBit_be16 a b⟩⟩

end Sys2Proof.Machine

/-!
PROOFS. 40_register_protocol.md: the RPU's two frames by what the transport answers (R70, R71, R73), and that a word
written is read back (R75).
-/

namespace Sys2Proof.Machine

/-! ### The frames in a phase that sends them -/

/-- FW by the answer to its transaction, in a phase that sends it (R17, R70). -/
theorem exec_fw_got {s : State} {reg : Reg} {v : Word} {b0 b1 : Byte} {t : Transport}
    (hi : issuesFw reg s.phase = true)
    (ha : s.transport.ask (.xfer s.devAddr [reg.ptr, hi8 v, lo8 v] 2) = some (.ok b0 b1, t)) :
    exec (.fw reg v) s = .next (afterWrite b0 b1 (((s.setTx reg.ptr (hi8 v) (lo8 v)).answered
      (.xfer s.devAddr [reg.ptr, hi8 v, lo8 v] 2) (.ok b0 b1) t).setRx b0 b1)) := by
  simp only [exec, execFw, hi, whenIssued, if_true, rpuWrite_got ha, Txn.complete]

theorem exec_fw_failed {s : State} {reg : Reg} {v : Word} {e : TransportError} {t : Transport}
    (hi : issuesFw reg s.phase = true)
    (ha : s.transport.ask (.xfer s.devAddr [reg.ptr, hi8 v, lo8 v] 2) = some (.err e, t)) :
    exec (.fw reg v) s = .next (((s.setTx reg.ptr (hi8 v) (lo8 v)).answered
      (.xfer s.devAddr [reg.ptr, hi8 v, lo8 v] 2) (.err e) t).raise (.transport e)) := by
  simp only [exec, execFw, hi, whenIssued, if_true, rpuWrite_failed ha, Txn.complete]

/-- FR by the answer to its transaction, in a phase that sends it (R17, R71). -/
theorem exec_fr_got {s : State} {reg : Reg} {b0 b1 : Byte} {t : Transport} (hi : issuesFr reg s.phase = true)
    (ha : s.transport.ask (.xfer s.devAddr [reg.ptr] 2) = some (.ok b0 b1, t)) :
    exec (.fr reg) s = .next (afterRead b0 b1
      (((s.setTx0 reg.ptr).answered (.xfer s.devAddr [reg.ptr] 2) (.ok b0 b1) t).setRx b0 b1)) := by
  simp only [exec, execFr, hi, whenIssued, if_true, rpuRead_got ha, Txn.complete]

theorem exec_fr_failed {s : State} {reg : Reg} {e : TransportError} {t : Transport} (hi : issuesFr reg s.phase = true)
    (ha : s.transport.ask (.xfer s.devAddr [reg.ptr] 2) = some (.err e, t)) :
    exec (.fr reg) s =
      .next (((s.setTx0 reg.ptr).answered (.xfer s.devAddr [reg.ptr] 2) (.err e) t).raise (.transport e)) := by
  simp only [exec, execFr, hi, whenIssued, if_true, rpuRead_failed ha, Txn.complete]

/-- Only READ_SINGLE goes on after its write frame; any other write ends its operation with the word returned (R70). -/
theorem afterWrite_finish {s : State} {b0 b1 : Byte} (hp : s.phase ≠ .rsWrite) :
    afterWrite b0 b1 s = s.finish (be16 b0 b1) := by
  unfold afterWrite
  split
  · contradiction
  · rfl

/-- Only a poll goes on after its read frame; any other read ends its operation with the word returned (R71, R91). -/
theorem afterRead_finish {s : State} {b0 b1 : Byte} (hp : s.phase ≠ .rsPoll) :
    afterRead b0 b1 s = s.finish (be16 b0 b1) := by
  unfold afterRead
  split
  · contradiction
  · rfl

/-- Settles O33, by what the transport answers. -/
theorem writeFrameResult : Obligations.WriteFrameResult := by
  intro s reg v t hp
  have hi : issuesFw reg s.phase = true := by rw [hp]; rfl
  refine ⟨fun b0 b1 ha => ?_, fun e ha => exec_fw_failed hi ha⟩
  rw [exec_fw_got hi ha, afterWrite_finish (by simp [hp])]
  rfl

/-- Settles O34: in both phases the frame is sent, and neither is the poll's. -/
theorem readFrameResult : Obligations.ReadFrameResult := by
  intro s reg t hp
  have hi : issuesFr reg s.phase = true := by
    obtain hp | ⟨hp, rfl⟩ := hp <;> rw [hp] <;> rfl
  have hpoll : s.phase ≠ .rsPoll := by
    obtain hp | ⟨hp, -⟩ := hp <;> simp [hp]
  refine ⟨fun b0 b1 ha => ?_, fun e ha => exec_fr_failed hi ha⟩
  rw [exec_fr_got hi ha, afterRead_finish (by simpa using hpoll)]
  rfl

/-! ### The two register operations of the command port, whole (R97) -/

/-- A request that is answered was not abandoned by a reset. -/
theorem Transport.no_reset_of_ask {t t' : Transport} {req : Request} {a : Answer} (h : t.ask req = some (a, t')) :
    ∀ clk rest, t.script ≠ .reset clk :: rest := by
  intro clk rest hs
  simp [Transport.ask, hs] at h

/-- WRITE_REGISTER answered `Ok` takes two steps: its acceptance and its write frame. -/
theorem steps_writeRegister {s : State} {w : Command} {rest : List HostInput} {reg : Reg} {v : Word} {b0 b1 : Byte}
    {t : Transport} (n : Nat) (hp : s.phase = .idle) (hl : s.life = .init) (hh : s.host = .command w :: rest)
    (hd : decodeCommand w = .ok (.writeRegister reg v))
    (ha : s.transport.ask (.xfer s.devAddr [reg.ptr, hi8 v, lo8 v] 2) = some (.ok b0 b1, t)) :
    steps (n + 2) s = steps n { s with
      phase := .idle, host := rest, txbuf := ⟨reg.ptr, hi8 v, lo8 v⟩, rxbuf := ⟨b0, b1⟩, transport := t
      trace := .response ⟨1, 0, be16 b0 b1, none⟩ ::
        .request (.xfer s.devAddr [reg.ptr, hi8 v, lo8 v] 2) (.ok [b0, b1]) :: s.trace } := by
  have sends : step (ran (.writeRegister reg v) { s with host := rest }) =
      exec (.fw reg v) (ran (.writeRegister reg v) { s with host := rest }) :=
    step_frame rfl (Transport.no_reset_of_ask ha) (frameOf_regWrite rfl rfl)
  rw [steps_succ (step_accepted hp hh hd rfl (by rw [hl]; rfl))]
  exact steps_succ (sends.trans ((writeFrameResult _ reg v t rfl).1 b0 b1 ha))

/-- READ_REGISTER answered `Ok` takes two steps: its acceptance and its read frame. -/
theorem steps_readRegister {s : State} {w : Command} {rest : List HostInput} {reg : Reg} {b0 b1 : Byte}
    {t : Transport} (n : Nat) (hp : s.phase = .idle) (hl : s.life = .init) (hh : s.host = .command w :: rest)
    (hd : decodeCommand w = .ok (.readRegister reg))
    (ha : s.transport.ask (.xfer s.devAddr [reg.ptr] 2) = some (.ok b0 b1, t)) :
    steps (n + 2) s = steps n { s with
      phase := .idle, host := rest, txbuf := { s.txbuf with b0 := reg.ptr }, rxbuf := ⟨b0, b1⟩, transport := t
      trace := .response ⟨1, 0, be16 b0 b1, none⟩ ::
        .request (.xfer s.devAddr [reg.ptr] 2) (.ok [b0, b1]) :: s.trace } := by
  have sends : step (ran (.readRegister reg) { s with host := rest }) =
      exec (.fr reg) (ran (.readRegister reg) { s with host := rest }) :=
    step_frame rfl (Transport.no_reset_of_ask ha) (frameOf_regRead rfl rfl)
  rw [steps_succ (step_accepted hp hh hd rfl (by rw [hl]; rfl))]
  exact steps_succ (sends.trans ((readFrameResult _ reg t (.inl rfl)).1 b0 b1 ha))

/-! ### A write and a read against the echoing transport -/

/-- A script that has ended gives the transport no entry back. -/
theorem Transport.ask_script_nil {t t' : Transport} {req : Request} {a : Answer} (hs : t.script = [])
    (h : t.ask req = some (a, t')) : t'.script = [] := by
  obtain ⟨b0, b1, rest, hok, -, -⟩ | ⟨e, rest, herr, -, -⟩ | ⟨rest, f, hpass | ⟨-, rfl⟩, -, rfl⟩ :=
    Transport.ask_cases h
  · exact absurd (hs.symm.trans hok) nofun
  · exact absurd (hs.symm.trans herr) nofun
  · exact absurd (hs.symm.trans hpass) nofun
  · exact Transport.settle_script _ _ _

/-- Settles O50: the write frame stores the word at the register's pointer, and the read frame finds it there. -/
theorem echoRoundTrip : Obligations.EchoRoundTrip := by
  intro s m reg v w w' rest hp hl hm hs hf hh hd hd'
  obtain ⟨tr, hwrite, hstored⟩ := Transport.ask_echo (req := .xfer s.devAddr [reg.ptr, hi8 v, lo8 v] 2) hs hf rfl
  have hread : Memory.read (Memory.write m (Reg.ptr reg).toNat (be16 (hi8 v) (lo8 v))) (Reg.ptr reg).toNat = v := by
    rw [Memory.read_write _ _ _ hm, if_pos rfl, be16_hi8_lo8]
  obtain ⟨tr', hanswer, -⟩ := Transport.ask_echo (req := .xfer s.devAddr [reg.ptr] 2)
    (Transport.ask_script_nil hs hwrite) hstored rfl
  rw [hread] at hanswer
  rw [steps_writeRegister 2 hp hl hh hd hwrite]
  refine ⟨_, steps_readRegister 0 rfl hl rfl hd' hanswer, ?_, rfl⟩
  rw [List.head?_cons, be16_hi8_lo8]

end Sys2Proof.Machine

/-!
PROOFS. 41_config_serializer.md: the fields of the configuration word (R80, R86), that its operands can be read back
from it (R87), and the fixed defaults `BASE` (R88).
-/

namespace Sys2Proof

/-! ### The fields of a configuration word (R20) -/

theorem decodePayload_eq_cw {p : Params} {w : Word} {m g r : Code} :
    decodePayload p w = .ok (.cw m g r) ↔
      isConfigWord p w = true ∧ w.extractLsb' 12 3 = m ∧ w.extractLsb' 9 3 = g ∧ w.extractLsb' 5 3 = r := by
  unfold decodePayload
  split <;> simp [*]

/-- The fields no operand reaches hold the start bit and the fixed defaults. -/
theorem isConfigWord_configWord (p : Params) (m g r : Code) : isConfigWord p (configWord p m g r) = true :=
  (decodePayload_eq_cw.mp (decodePayload_configWord p m g r)).1

/-- The operands' fields hold the operands. -/
theorem configWord_operands (p : Params) (m g r : Code) :
    (configWord p m g r).extractLsb' 12 3 = m ∧ (configWord p m g r).extractLsb' 9 3 = g ∧
      (configWord p m g r).extractLsb' 5 3 = r :=
  (decodePayload_eq_cw.mp (decodePayload_configWord p m g r)).2

theorem configWord_inj {p : Params} {m m' g g' r r' : Code} :
    configWord p m g r = configWord p m' g' r' ↔ m = m' ∧ g = g' ∧ r = r' := by
  constructor
  · intro h
    obtain ⟨hm, hg, hr⟩ := configWord_operands p m g r
    obtain ⟨hm', hg', hr'⟩ := configWord_operands p m' g' r'
    rw [h] at hm hg hr
    exact ⟨hm.symm.trans hm', hg.symm.trans hg', hr.symm.trans hr'⟩
  · rintro ⟨rfl, rfl, rfl⟩
    rfl

/-! ### The mux patterns (R4, R81) -/

theorem Channel.index_injective : Function.Injective Channel.index :=
  Function.LeftInverse.injective Channel.ofIndex_index

/-- The pattern of a channel stands in `MUX_SE` at the channel's index. -/
theorem Params.mux_eq_getElem (p : Params) (ch : Channel) : p.mux ch = p.muxSe[ch.index.toNat] := by
  cases ch <;> rfl

/-- Distinct channels have distinct mux patterns, as R4 requires of `MUX_SE`. -/
theorem Params.mux_injective {p : Params} (h : p.wf = true) : Function.Injective p.mux := by
  intro ch ch' heq
  simp only [Params.wf, Bool.and_eq_true, decide_eq_true_eq] at h
  obtain ⟨⟨⟨hmux, -⟩, -⟩, -⟩ := h
  -- Distinctness speaks of the list of the codes, so the entries are read from there.
  have hlt (c : Channel) : c.index.toNat < p.muxSe.toList.length := by simpa using c.index.isLt
  rw [Params.mux_eq_getElem, Params.mux_eq_getElem, ← Vector.getElem_toList (hlt ch),
    ← Vector.getElem_toList (hlt ch'), hmux.getElem_inj_iff] at heq
  exact Channel.index_injective (BitVec.eq_of_toNat_eq heq)

end Sys2Proof

namespace Sys2Proof.Machine

/-! ### Pre-shifted constants (R54) -/

section PreShifted

variable {m n i j : Nat}

/-- A pre-shifted constant has no bit set outside its field. -/
theorem getElem_preShifted_outside (a : BitVec m) {k : Nat} (hk : k < 16) (h : k < i ∨ i + m ≤ k) :
    (preShifted a i)[k] = false := by
  obtain h | h := h
  · simp [preShifted, h]
  · simp [preShifted, BitVec.getLsbD_of_ge a (k - i) (by omega)]

/-- Two fields that do not overlap share no bit. -/
theorem preShifted_and_preShifted (a : BitVec m) (b : BitVec n) (h : i + m ≤ j ∨ j + n ≤ i) :
    preShifted a i &&& preShifted b j = 0 := by
  ext k hk
  rw [BitVec.getElem_and]
  by_cases ha : k < i ∨ i + m ≤ k
  · simp [getElem_preShifted_outside a hk ha]
  · simp [getElem_preShifted_outside b hk (i := j) (by omega)]

theorem extractLsb'_preShifted_outside (a : BitVec m) (h : i + m ≤ j ∨ j + n ≤ i) (hw : j + n ≤ 16) :
    (preShifted a i).extractLsb' j n = 0 := by
  ext k hk
  rw [BitVec.getElem_extractLsb', BitVec.getLsbD_eq_getElem (by omega),
    getElem_preShifted_outside a (by omega) (by omega), BitVec.ofNat_eq_ofNat, BitVec.getElem_zero]

end PreShifted

/-- Settles O12: `BASE` by its definition, and each of its fields lies outside bits 15:9 and 7:5. -/
theorem cfgBaseFields : Obligations.CfgBaseFields := by
  refine ⟨fun p => ?_, fun p => ?_, by decide⟩
  · simp only [cfgBase, preShifted, BitVec.shiftLeft_zero]
  · simp (disch := decide) only [cfgBase, BitVec.extractLsb'_or, extractLsb'_preShifted_outside,
      BitVec.or_self, and_self]

/-! ### The assembled word -/

/-- Settles O9: the channel's pattern is the mux code the three steps of R80 put in. -/
theorem cfgIsConcatenation : Obligations.CfgIsConcatenation := fun p ch g r =>
  assemble_eq_configWord p (p.mux ch) g r

/-- OR is addition where no bit is shared (R80, R86): the fields from the start bit down, then `BASE`. -/
theorem assemble_eq_sum (p : Params) (m g r : Code) :
    assemble p m g r = preShifted 1#1 15 + preShifted m 12 + preShifted g 9 + preShifted r 5 + cfgBase p := by
  rw [BitVec.add_eq_or_of_and_eq_zero _ (preShifted m 12), BitVec.add_eq_or_of_and_eq_zero _ (preShifted g 9),
    BitVec.add_eq_or_of_and_eq_zero _ (preShifted r 5), BitVec.add_eq_or_of_and_eq_zero _ (cfgBase p)]
  · rw [assemble, show (0x8000 : Word) = preShifted 1#1 15 from rfl]
    ac_rfl
  -- What is left: each summand shares no bit with the ones before it.
  all_goals simp (disch := decide) only [cfgBase, BitVec.and_or_distrib_left, BitVec.and_or_distrib_right,
    preShifted_and_preShifted, BitVec.or_self, BitVec.ofNat_eq_ofNat]

/-- Settles O10: the fields are those of the concatenation, and the OR is a sum. -/
theorem cfgFieldsIndependent : Obligations.CfgFieldsIndependent := by
  intro p ch g r w
  have hw : w = configWord p (p.mux ch) g r := assemble_eq_configWord p (p.mux ch) g r
  obtain ⟨hmux, hgain, hrate⟩ := configWord_operands p (p.mux ch) g r
  have hfixed := isConfigWord_configWord p (p.mux ch) g r
  rw [← hw] at hmux hgain hrate hfixed
  simp only [isConfigWord, Bool.and_eq_true, beq_iff_eq] at hfixed
  obtain ⟨⟨⟨⟨⟨hstart, hmode⟩, hcmode⟩, hcpol⟩, hclat⟩, hcque⟩ := hfixed
  exact ⟨hstart, hmux, hgain, hmode, hrate, hcmode, hcpol, hclat, hcque, assemble_eq_sum p (p.mux ch) g r⟩

/-- Settles O11: equal words have equal fields, and the pattern in the mux field is that of one channel only. -/
theorem cfgInjective : Obligations.CfgInjective := by
  intro p hwf ch ch' g g' r r' h
  rw [cfgAssembleWord, cfgAssembleWord, assemble_eq_configWord, assemble_eq_configWord, configWord_inj] at h
  obtain ⟨hmux, hgain, hrate⟩ := h
  exact ⟨Params.mux_injective hwf hmux, hgain, hrate⟩

end Sys2Proof.Machine

/-!
PROOFS. 42_driver_sequencer.md R98, R99: when an operation of the command port is taken, refused or run, and what the
ones that proceed leave (R90 to R97, R100).
-/

namespace Sys2Proof.Machine

/-! ### What acceptance comes to -/

/-- A busy port takes no operation (R99). -/
theorem exec_busy {i : Instr} {s : State} (hc : i.isCommand = true) (hp : s.phase ≠ .idle) : exec i s = .next s := by
  rw [exec_command hc, accept, if_neg hp]

/-- An operation the guard refuses raises the guard's error (R98). -/
theorem exec_guarded {i : Instr} {s : State} {e : ErrorKind} (hc : i.isCommand = true) (hp : s.phase = .idle)
    (hw : WellFormed s.params i = true) (hg : lifeGuard s.life i = some e) : exec i s = .next (s.raise e) := by
  simp only [exec_command hc, accept, hp, hw, hg, if_true]

/-- An operation the guard lets proceed runs. -/
theorem exec_proceeds {i : Instr} {s : State} (hc : i.isCommand = true) (hp : s.phase = .idle)
    (hw : WellFormed s.params i = true) (hg : lifeGuard s.life i = none) : exec i s = .next (ran i s) :=
  (exec_command hc s).trans (accept_run hp hw hg)

/-! ### The lifecycle table (R98) -/

theorem lifeGuard_uninit {i : Instr} (hi : i ≠ .initialise) : lifeGuard .uninit i = some .notInitialized := by
  cases i <;> first | rfl | exact absurd rfl hi

theorem lifeGuard_init {i : Instr} (hi : i ≠ .initialise) : lifeGuard .init i = none := by
  cases i <;> first | rfl | exact absurd rfl hi

/-- In an initialized block every well-formed operation but INITIALIZE runs. -/
theorem exec_live {i : Instr} {s : State} (hc : i.isCommand = true) (hp : s.phase = .idle) (hl : s.life = .init)
    (hi : i ≠ .initialise) (hw : WellFormed s.params i = true) : exec i s = .next (ran i s) :=
  exec_proceeds hc hp hw (hl ▸ lifeGuard_init hi)

/-! ### Ending in `IDLE` an operation taken there -/

/-- `return v` in `IDLE` adds its response to the record and leaves every register as it is. -/
theorem finish_idle {s : State} (hp : s.phase = .idle) (v : Word) :
    s.finish v = { s with trace := .response ⟨1, 0, v, none⟩ :: s.trace } := by
  simp only [State.finish, hp]
  rfl

/-- So does an error raised before any request. -/
theorem raise_early {s : State} {e : ErrorKind} (hp : s.phase = .idle) (he : early e) :
    s.raise e = { s with trace := .response (.failure e) :: s.trace } := by
  simp only [State.raise, hp, he.lifeAfter]

/-- An operation that proceeds answers `Ok` or does not answer yet. -/
theorem ran_trace (i : Instr) (s : State) :
    (ran i s).trace = s.trace ∨ ∃ v, (ran i s).trace = .response (.success v) :: s.trace := by
  cases i with
  | setGain | getGain | setDataRate | getDataRate | cfgAssemble => exact .inr ⟨_, rfl⟩
  | initialise | readSingle | whoAmI | writeRegister | readRegister | fw | fr | fb | cw => exact .inl rfl

theorem ran_not_failed (i : Instr) (s : State) (err : BitVec 4) (terr : Option TransportError) :
    (ran i s).trace ≠ .response ⟨0, err, 0, terr⟩ :: s.trace := by
  obtain h | ⟨v, h⟩ := ran_trace i s <;> rw [h]
  · exact (List.cons_ne_self _ _).symm
  · simp [Response.success]

/-- A setter answered `Ok` takes nothing of what the host presents. -/
theorem setterOf_host (s u : State) : ((setterOf s).2.2 u).host = u.host := by
  unfold setterOf
  split <;> rfl

/-! ### The obligations about acceptance -/

/-- Settles O13. -/
theorem stepRunsCommand : Obligations.StepRunsCommand := fun _ _ _ _ => step_command

/-- Settles O22: outside `IDLE` a step is a reset in flight, a request of INITIALIZE or a transaction, and none of them
writes the list of the host. -/
theorem busyPortTakesNothing : Obligations.BusyPortTakesNothing := by
  refine ⟨fun _ _ => exec_busy, fun s t hp h => ?_⟩
  obtain ⟨clk, rest, hs⟩ | hs := reset_or_not s
  · obtain rfl := Host.Outcome.next.inj (h.symm.trans (step_abandon hp hs))
    rfl
  · obtain hi | hx := Phase.init_or_xfer hp
    · obtain ⟨-, rfl⟩ | ⟨e, tr, -, rfl⟩ | ⟨b0, b1, tr, -, rfl⟩ := init_cases hi hs h
      · rfl
      · rfl
      · exact setterOf_host s _
    · obtain ⟨out, m, -, -, ht⟩ := xfer_cases hx hs h
      obtain ⟨_, _, _, _, _, _, rfl⟩ := ht.frame
      rfl

/-- Settles O23: the rows of the table by `LIFE`; every refusal is an error raised before any request. -/
theorem lifecycleGuard : Obligations.LifecycleGuard := by
  intro s i hc hw hp
  have refused {e : ErrorKind} (hg : lifeGuard s.life i = some e) :
      exec i s = .next { s with trace := .response (.failure e) :: s.trace } := by
    rw [exec_guarded hc hp hw hg, raise_early hp (early_of_guard hg)]
  refine ⟨fun hl hi => ?_, fun hl hi => ?_, fun hl => ?_, fun h => ?_⟩
  · exact refused (hl ▸ lifeGuard_uninit hi)
  · exact refused (by rw [hl, hi]; rfl)
  · exact refused (by rw [hl]; rfl)
  · have hg : lifeGuard s.life i = none := by
      obtain ⟨hl, rfl⟩ | ⟨hl, hi⟩ := h
      · rw [hl]; rfl
      · exact hl ▸ lifeGuard_init hi
    exact ⟨_, exec_proceeds hc hp hw hg, ran_not_failed i s⟩

/-! ### The obligations about single operations -/

/-- Settles O24. -/
theorem initialiseAccepted : Obligations.InitialiseAccepted :=
  fun _ hp hl => exec_proceeds rfl hp rfl (by rw [hl]; rfl)

/-- Settles O25. -/
theorem readSingleAccepted : Obligations.ReadSingleAccepted :=
  fun _ _ hp hl => exec_live rfl hp hl nofun rfl

/-- Settles O26: the word is the encoding, and a legal code makes SET_GAIN well formed. -/
theorem setGainResult : Obligations.SetGainResult :=
  ⟨fun g => decodeOfEncode Params.default (.setGain g), fun s g hp hl hlegal =>
    .trans (exec_live rfl hp hl nofun hlegal) (congrArg _ (finish_idle (s := { s with gain := g }) hp 0))⟩

/-- Settles O27. -/
theorem getGainResult : Obligations.GetGainResult :=
  ⟨decodeOfEncode Params.default .getGain, fun _ hp hl =>
    .trans (exec_live rfl hp hl nofun rfl) (congrArg _ (finish_idle hp _))⟩

/-- Settles O28: every code makes SET_DATA_RATE well formed. -/
theorem setDataRateResult : Obligations.SetDataRateResult :=
  ⟨fun r => decodeOfEncode Params.default (.setDataRate r), fun s r hp hl =>
    .trans (exec_live rfl hp hl nofun rfl) (congrArg _ (finish_idle (s := { s with rate := r }) hp 0))⟩

/-- Settles O29. -/
theorem getDataRateResult : Obligations.GetDataRateResult :=
  ⟨decodeOfEncode Params.default .getDataRate, fun _ hp hl =>
    .trans (exec_live rfl hp hl nofun rfl) (congrArg _ (finish_idle hp _))⟩

/-- Settles O30. -/
theorem cfgAssembleResult : Obligations.CfgAssembleResult := fun _ _ hp hl =>
  .trans (exec_live rfl hp hl nofun rfl) (congrArg _ (finish_idle hp _))

/-- Settles O31. -/
theorem frameCommandsAccepted : Obligations.FrameCommandsAccepted := fun _ hp hl =>
  ⟨fun _ _ => exec_live rfl hp hl nofun rfl, fun _ => exec_live rfl hp hl nofun rfl, exec_live rfl hp hl nofun rfl⟩

end Sys2Proof.Machine

/-!
PROOFS. 42_driver_sequencer.md R90: INITIALIZE, whole.
-/

namespace Sys2Proof.Machine

/-- A setter answered `Ok` from the script leads to the next setter or to the end of INITIALIZE. -/
theorem step_setter_ok {s : State} {b0 b1 : Byte} {rest : List Reply} (hi : s.phase.isInit = true)
    (hs : s.transport.script = .ok b0 b1 :: rest) :
    step s = .next ((setterOf s).2.2 (s.answered (setterOf s).1 (.ok b0 b1)
      (({ s.transport with script := rest } : Transport).applySetting (setterOf s).1))) := by
  rw [step_init hi (by simp [hs])]
  simp only [setterStep, transact, Transport.ask, hs]

/-- A setter answered `Err` from the script ends INITIALIZE with the setter's fault. -/
theorem step_setter_err {s : State} {e : TransportError} {rest : List Reply} (hi : s.phase.isInit = true)
    (hs : s.transport.script = .err e :: rest) :
    step s = .next ((s.answered (setterOf s).1 (.err e)
      (({ s.transport with script := rest } : Transport).forgetSetting (setterOf s).1)).raise
        ((setterOf s).2.1 e)) := by
  rw [step_init hi (by simp [hs])]
  simp only [setterStep, transact, Transport.ask, hs]

section Presented
variable {s : State} {host : List HostInput} {rest : List Reply} {x0 x1 y0 y1 : Byte} (n : Nat)
  (hp : s.phase = .idle) (hl : s.life = .uninit) (hh : s.host = .command 0x000000 :: host)
include hp hl hh

theorem steps_initialise : steps (n + 1) s = steps n { s with host := host, phase := .initIdleTo } :=
  steps_succ (step_accepted hp hh rfl rfl (by rw [hl]; rfl))

/-- INITIALIZE as far as its second request. -/
theorem steps_busIdle_ok (hs : s.transport.script = .ok x0 x1 :: rest) :
    steps (n + 2) s = steps n { s with
      host := host, phase := .initPinLow
      transport := { s.transport with script := rest, busIdleUs := some 200 }
      trace := setterEvents s.clkHz 1 ++ s.trace } := by
  rw [steps_initialise (n + 1) hp hl hh]
  exact steps_succ (step_setter_ok rfl hs)

/-- INITIALIZE as far as its third request. -/
theorem steps_pinLow_ok (hs : s.transport.script = .ok x0 x1 :: .ok y0 y1 :: rest) :
    steps (n + 3) s = steps n { s with
      host := host, phase := .initClock
      transport := { s.transport with script := rest, busIdleUs := some 200, pinLowUs := some 1000 }
      trace := setterEvents s.clkHz 2 ++ s.trace } := by
  rw [steps_busIdle_ok (n + 1) hp hl hh hs]
  exact steps_succ (step_setter_ok rfl rfl)

end Presented

/-- Settles O42: INITIALIZE as far as its last request, and then that request by its answer. -/
theorem initialiseRun : Obligations.InitialiseRun := by
  intro s host more e x0 x1 y0 y1 z0 z1 hp hl hh
  refine ⟨fun hs => ?_, fun hs => ?_, fun hs => ?_, fun hs => ?_⟩
  · rw [steps_pinLow_ok 1 hp hl hh hs, hp]
    exact steps_succ (step_setter_ok rfl rfl)
  · rw [steps_initialise 1 hp hl hh, hp]
    exact steps_succ (step_setter_err rfl hs)
  · rw [steps_busIdle_ok 1 hp hl hh hs, hp]
    exact steps_succ (step_setter_err rfl rfl)
  · rw [steps_pinLow_ok 1 hp hl hh hs, hp]
    exact steps_succ (step_setter_err rfl rfl)

end Sys2Proof.Machine

/-!
PROOFS. 42_driver_sequencer.md R91, R96, R104: the frames the sequencer sends in phases of its own, by what the
transport answers.
-/

namespace Sys2Proof.Machine

/-! ### The byte-read frame of WHO_AM_I (R96) -/

theorem exec_fb {s : State} (hp : s.phase = .waiRead) :
    exec .fb s = (rpuReadByte s).complete fun b _ s => s.finish (zextByte b) := by
  simp only [exec, execFb, hp, beq_self_eq_true, whenIssued, if_true]

/-- Settles O35, by what the transport answers. -/
theorem byteFrameResult : Obligations.ByteFrameResult := by
  refine fun s t hp => ⟨fun b0 b1 ha => ?_, fun e ha => ?_⟩
  · rw [exec_fb hp, rpuReadByte_got ha]
    rfl
  · rw [exec_fb hp, rpuReadByte_failed ha]
    rfl

/-! ### The configuration write (R91 step 4) -/

/-- `POLLS` starts at 0 if it exists. -/
theorem startPolling_eq (s : State) :
    startPolling s = { s with phase := .rsPoll, polls := if s.params.maxPolls = none then s.polls else 0 } := by
  unfold startPolling
  cases hm : s.params.maxPolls <;> rfl

/-- In `RS_WRITE` a configuration word goes out as the write frame that carries it (R54). -/
theorem exec_cw_eq_fw {s : State} (hp : s.phase = .rsWrite) (m g r : Code) :
    exec (.cw m g r) s = exec (.fw .config (configWord s.params m g r)) s := by
  simp only [exec, execCw, execFw, hp, issuesFw, beq_self_eq_true, assemble_eq_configWord]

/-- After the write frame of `RS_WRITE` polling starts, whatever the bytes read back (D8). -/
theorem afterWrite_rsWrite {s : State} {b0 b1 : Byte} (hp : s.phase = .rsWrite) :
    afterWrite b0 b1 s = startPolling s := by
  simp only [afterWrite, hp]

/-- Settles O36: a configuration word is a write frame, and what follows the write is the start of polling. -/
theorem configurationWrite : Obligations.ConfigurationWrite := by
  intro s i w t hp hw req
  have hfw : exec i s = exec (.fw .config w) s := by
    obtain rfl | ⟨m, g, r, rfl, rfl⟩ := hw
    · rfl
    · exact exec_cw_eq_fw hp m g r
  have hi : issuesFw .config s.phase = true := by rw [hp]; rfl
  refine ⟨fun b0 b1 ha => ?_, fun e ha => hfw.trans (exec_fw_failed hi ha)⟩
  rw [hfw, exec_fw_got hi ha, afterWrite_rsWrite (by exact hp), startPolling_eq]
  rfl

/-! ### The poll (R91 step 5) -/

/-- After the read frame of `RS_POLL` the word read is tested. -/
theorem afterRead_rsPoll {s : State} {b0 b1 : Byte} (hp : s.phase = .rsPoll) :
    afterRead b0 b1 s = afterPoll (be16 b0 b1) s := by
  simp only [afterRead, hp]

/-- Settles O37: the status bit is the top bit of the first byte, and what follows the poll is told by it and the
count. -/
theorem pollResult : Obligations.PollResult := by
  intro s b0 b1 t hp req ha r
  have polled : exec (.fr .config) s = .next (afterPoll (be16 b0 b1) r) := by
    rw [exec_fr_got (by rw [hp]; rfl) ha, afterRead_rsPoll (by exact hp)]
    rfl
  rw [polled, ← statusBit_be16 b0 b1]
  refine ⟨fun hb => ?_, fun hb hm => ?_, fun n hb hm hn => ?_, fun n hb hm hn => ?_⟩
  · exact congrArg _ (afterPoll_ready hb)
  · exact congrArg _ (afterPoll_uncapped (s := r) hb hm)
  · exact congrArg _ (afterPoll_below (s := r) hb hm hn)
  · rw [afterPoll_limit (s := r) hb hm hn, ← hn]
    rfl

end Sys2Proof.Machine

/-!
PROOFS. 42_driver_sequencer.md R91: READ_SINGLE, whole. The runs are stated over what the transport answers to each
request, so that they serve an answer from the script and one from a fixture alike.
-/

namespace Sys2Proof.Machine

/-! ### What the transport answers -/

theorem Transport.ask_script_ok {t : Transport} {b0 b1 : Byte} {rest : List Reply} (hs : t.script = .ok b0 b1 :: rest)
    (addr : BitVec 7) (out : List Byte) (m : Nat) :
    t.ask (.xfer addr out m) = some (.ok b0 b1, { t with script := rest }) := by
  simp only [Transport.ask, hs, Transport.applySetting_xfer]

theorem Transport.ask_script_err {t : Transport} {e : TransportError} {rest : List Reply}
    (hs : t.script = .err e :: rest) (addr : BitVec 7) (out : List Byte) (m : Nat) :
    t.ask (.xfer addr out m) = some (.err e, { t with script := rest }) := by
  simp only [Transport.ask, hs, Transport.forgetSetting_xfer]

/-- The transport `t` answers polls in a row with these bytes, and is `t'` after them. -/
def AnswersPolls (addr : BitVec 7) : List (Byte × Byte) → Transport → Transport → Prop
  | [], t, t' => t' = t
  | b :: bs, t, t' => ∃ u, t.ask (.xfer addr [0x01] 2) = some (.ok b.1 b.2, u) ∧ AnswersPolls addr bs u t'

theorem answersPolls_script (addr : BitVec 7) {polls : List (Byte × Byte)} {rest : List Reply} {t : Transport}
    (hs : t.script = pollReplies polls ++ rest) : AnswersPolls addr polls t { t with script := rest } := by
  induction polls generalizing t with
  | nil =>
    obtain rfl : t.script = rest := hs
    rfl
  | cons b bs ih => exact ⟨_, Transport.ask_script_ok hs _ _ _, ih rfl⟩

/-! ### The operation up to its last busy poll -/

/-- The record of one more poll. -/
theorem pollEvents_concat (addr : BitVec 7) (polls : List (Byte × Byte)) (b0 b1 : Byte) :
    pollEvents addr (polls ++ [(b0, b1)]) = .request (.xfer addr [0x01] 2) (.ok [b0, b1]) :: pollEvents addr polls := by
  simp [pollEvents]

/-- The state in which a READ_SINGLE that began in `s` is about to poll, its configuration write answered `wrote` and
these busy polls behind it. -/
def State.polling (s : State) (ch : Channel) (host : List HostInput) (wrote : Byte × Byte) (busy : List (Byte × Byte))
    (rx : RxBuf) (t : Transport) : State :=
  let w := cfgAssembleWord s.params ch s.gain s.rate
  { s with
    phase := .rsPoll, host := host, chan := ch.index, cfgw := w, txbuf := ⟨0x01, hi8 w, lo8 w⟩, rxbuf := rx
    polls := if s.params.maxPolls = none then s.polls else busy.length
    transport := t
    trace := pollEvents s.devAddr busy ++ writeEvent s.devAddr w (.ok [wrote.1, wrote.2]) :: s.trace }

section Sample

variable {s : State} {ch : Channel} {host : List HostInput} {wrote : Byte × Byte} {busy : List (Byte × Byte)}
  {rx : RxBuf} {t t' : Transport} {b0 b1 : Byte}

/-- The first step of READ_SINGLE is its acceptance. -/
theorem steps_sample (n : Nat) (h : SampleStarts s ch host) :
    steps (n + 1) s = steps n (ran (.readSingle ch) { s with host := host }) := by
  obtain ⟨w, hh, hd⟩ := h.presented
  exact steps_succ (step_accepted h.idle hh hd rfl (by rw [h.ready]; rfl))

/-- The second is the write frame of the word the CFS made. -/
theorem step_sample_write {a : Answer} {w : Word} (hw : w = cfgAssembleWord s.params ch s.gain s.rate)
    (ha : s.transport.ask (.xfer s.devAddr [0x01, hi8 w, lo8 w] 2) = some (a, t)) :
    step (ran (.readSingle ch) { s with host := host }) =
      exec (.fw .config w) (ran (.readSingle ch) { s with host := host }) := by
  have hcfg : w = configWord s.params (s.params.mux ch) s.gain s.rate := hw.trans (assemble_eq_configWord _ _ _ _)
  rw [hcfg] at ha ⊢
  refine Eq.trans (step_frame rfl (Transport.no_reset_of_ask ha) (frameOf_rsWrite rfl ?_)) (exec_cw_eq_fw rfl _ _ _)
  exact hw.symm.trans hcfg

theorem steps_sample_wrote (n : Nat) (h : SampleStarts s ch host) {w : Word}
    (hw : w = cfgAssembleWord s.params ch s.gain s.rate)
    (ha : s.transport.ask (.xfer s.devAddr [0x01, hi8 w, lo8 w] 2) = some (.ok wrote.1 wrote.2, t)) :
    steps (n + 2) s = steps n (s.polling ch host wrote [] ⟨wrote.1, wrote.2⟩ t) := by
  rw [steps_sample (n + 1) h]
  refine steps_succ ((step_sample_write hw ha).trans ?_)
  subst hw
  exact (configurationWrite _ _ _ t rfl (.inl rfl)).1 _ _ ha

/-- In `RS_POLL` a step is the read frame of the configuration register. -/
theorem step_polling {a : Answer} (ha : t.ask (.xfer s.devAddr [0x01] 2) = some (a, t')) :
    step (s.polling ch host wrote busy rx t) = exec (.fr .config) (s.polling ch host wrote busy rx t) :=
  step_frame rfl (Transport.no_reset_of_ask ha) (frameOf_rsPoll rfl)

/-- A busy poll that does not reach the cap is followed by the next. -/
theorem step_polling_busy (hb : b0.getLsbD 7 = false)
    (hcap : ∀ n, s.params.maxPolls = some n → busy.length + 1 ≠ n)
    (ha : t.ask (.xfer s.devAddr [0x01] 2) = some (.ok b0 b1, t')) :
    step (s.polling ch host wrote busy rx t) =
      .next (s.polling ch host wrote (busy ++ [(b0, b1)]) ⟨b0, b1⟩ t') := by
  rw [step_polling ha]
  obtain ⟨-, huncapped, hbelow, -⟩ := pollResult (s.polling ch host wrote busy rx t) b0 b1 t' rfl ha
  cases hm : s.params.maxPolls with
  | none =>
    rw [huncapped hb hm]
    simp only [State.polling, hm, pollEvents_concat, if_true]
    rfl
  | some n =>
    have hpolls : (s.polling ch host wrote busy rx t).polls = busy.length := by simp [State.polling, hm]
    rw [hbelow n hb hm (hpolls ▸ hcap n hm), hpolls]
    simp [State.polling, hm, pollEvents_concat]

/-- Any number of them, by induction on those still to come. -/
theorem steps_polling_busy (more : List (Byte × Byte)) (hmore : allBusy more)
    (hcap : ∀ n, s.params.maxPolls = some n → busy.length + more.length < n)
    (ha : AnswersPolls s.devAddr more t t') :
    ∃ rx', ∀ n, steps (n + more.length) (s.polling ch host wrote busy rx t) =
      steps n (s.polling ch host wrote (busy ++ more) rx' t') := by
  induction more generalizing busy rx t with
  | nil =>
    obtain rfl := ha
    exact ⟨rx, fun n => by rw [List.append_nil]; rfl⟩
  | cons b bs ih =>
    obtain ⟨u, hask, hrest⟩ := ha
    obtain ⟨hb, hbs⟩ := List.forall_mem_cons.mp hmore
    simp only [List.length_cons] at hcap ⊢
    have hstep := step_polling_busy (ch := ch) (host := host) (wrote := wrote) (busy := busy) (rx := rx) hb
      (fun n hn => by have := hcap n hn; omega) hask
    obtain ⟨rx', hrun⟩ := ih (busy := busy ++ [b]) (rx := ⟨b.1, b.2⟩) hbs
      (fun n hn => by have := hcap n hn; simp only [List.length_append, List.length_singleton]; omega) hrest
    refine ⟨rx', fun n => (steps_succ hstep).trans ?_⟩
    exact (hrun n).trans (by rw [List.append_assoc, List.singleton_append])

/-! ### The poll that ends the loop, and the conversion read -/

/-- The state in which that READ_SINGLE is about to read the conversion register, its last poll answered `ready`. -/
def State.sampled (s : State) (ch : Channel) (host : List HostInput) (wrote : Byte × Byte) (busy : List (Byte × Byte))
    (ready : Byte × Byte) (t : Transport) : State :=
  { s.polling ch host wrote busy ⟨ready.1, ready.2⟩ t with
    phase := .rsRead
    trace := .request (.xfer s.devAddr [0x01] 2) (.ok [ready.1, ready.2]) ::
      (s.polling ch host wrote busy ⟨ready.1, ready.2⟩ t).trace }

variable {ready : Byte × Byte}

theorem step_polling_ready (hr : ready.1.getLsbD 7 = true)
    (ha : t.ask (.xfer s.devAddr [0x01] 2) = some (.ok ready.1 ready.2, t')) :
    step (s.polling ch host wrote busy rx t) = .next (s.sampled ch host wrote busy ready t') := by
  rw [step_polling ha]
  exact (pollResult (s.polling ch host wrote busy rx t) ready.1 ready.2 t' rfl ha).1 hr

/-- In `RS_READ` a step is the read frame of the conversion register. -/
theorem step_sampled {a : Answer} (ha : t.ask (.xfer s.devAddr [0x00] 2) = some (a, t')) :
    step (s.sampled ch host wrote busy ready t) = exec (.fr .conversion) (s.sampled ch host wrote busy ready t) :=
  step_frame rfl (Transport.no_reset_of_ask ha) (frameOf_rsRead rfl)

/-! ### The operation from its acceptance -/

variable {w : Word} {u v x : Transport} (h : SampleStarts s ch host)
  (hw : w = cfgAssembleWord s.params ch s.gain s.rate)
  (hwrote : s.transport.ask (.xfer s.devAddr [0x01, hi8 w, lo8 w] 2) = some (.ok wrote.1 wrote.2, u))
  (hbusy : allBusy busy) (hcap : ∀ n, s.params.maxPolls = some n → busy.length < n)
  (hpolls : AnswersPolls s.devAddr busy u v)
include h hw hwrote hbusy hcap hpolls

/-- READ_SINGLE as far as its last busy poll: the acceptance, the write and the busy polls. -/
theorem steps_sample_polling :
    ∃ rx, ∀ n, steps (n + busy.length + 2) s = steps n (s.polling ch host wrote busy rx v) := by
  obtain ⟨rx, hrun⟩ := steps_polling_busy (s := s) (ch := ch) (host := host) (wrote := wrote) (busy := [])
    (rx := ⟨wrote.1, wrote.2⟩) busy hbusy (by simpa using hcap) hpolls
  exact ⟨rx, fun n => (steps_sample_wrote _ h hw hwrote).trans (hrun n)⟩

variable (hr : ready.1.getLsbD 7 = true)
  (hready : v.ask (.xfer s.devAddr [0x01] 2) = some (.ok ready.1 ready.2, x))
include hr hready

/-- READ_SINGLE as far as its conversion read. -/
theorem steps_sample_sampled (n : Nat) :
    steps (n + busy.length + 3) s = steps n (s.sampled ch host wrote busy ready x) := by
  obtain ⟨rx, hrun⟩ := steps_sample_polling h hw hwrote hbusy hcap hpolls
  rw [show n + busy.length + 3 = (n + 1) + busy.length + 2 by omega, hrun (n + 1)]
  exact steps_succ (step_polling_ready hr hready)

/-- READ_SINGLE whose every request is answered `Ok` ends with the conversion register as it is read. -/
theorem steps_sample_ok (hread : x.ask (.xfer s.devAddr [0x00] 2) = some (.ok b0 b1, t)) :
    steps (busy.length + 4) s =
      .next { s with
        host := host, chan := ch.index, cfgw := w, txbuf := ⟨0x00, hi8 w, lo8 w⟩, rxbuf := ⟨b0, b1⟩
        polls := if s.params.maxPolls = none then s.polls else busy.length
        transport := t
        trace := .response ⟨1, 0, be16 b0 b1, none⟩ :: .request (.xfer s.devAddr [0x00] 2) (.ok [b0, b1]) ::
          pollEvents s.devAddr (busy ++ [ready]) ++ writeEvent s.devAddr w (.ok [wrote.1, wrote.2]) :: s.trace } := by
  rw [show busy.length + 4 = 1 + busy.length + 3 by omega,
    steps_sample_sampled h hw hwrote hbusy hcap hpolls hr hready 1, h.idle, pollEvents_concat]
  subst hw
  exact steps_succ ((step_sampled hread).trans
    ((readFrameResult (s.sampled ch host wrote busy ready x) .conversion t (.inr ⟨rfl, rfl⟩)).1 b0 b1 hread))

end Sample

/-- Settles O43: the transport answers every request from the script. -/
theorem readSingleSucceeds : Obligations.ReadSingleSucceeds := by
  intro s ch host busy more d0 d1 r0 r1 c0 c1 h hbusy hr hcap hs w polls
  rw [show polls.length + 3 = busy.length + 4 by simp [polls]]
  exact steps_sample_ok (wrote := (d0, d1)) (ready := (r0, r1)) (x := { s.transport with script := .ok c0 c1 :: more })
    h rfl (Transport.ask_script_ok hs _ _ _) hbusy hcap (answersPolls_script _ rfl) hr
    (Transport.ask_script_ok rfl _ _ _) (Transport.ask_script_ok rfl _ _ _)

/-- Settles O44: each of the three runs goes as far as the request that fails, whose frame then raises `Transport`. -/
theorem readSingleFaults : Obligations.ReadSingleFaults := by
  intro s ch host busy more d0 d1 r0 r1 e h hbusy hr hcap w wrote failed
  have fails (out : List Byte) : ({ s.transport with script := .err e :: more } : Transport).ask
      (.xfer s.devAddr out 2) = some (.err e, { s.transport with script := more }) :=
    Transport.ask_script_err rfl s.devAddr out 2
  refine ⟨fun hs => ?_, fun hs => ?_, fun hs => ?_⟩
  · have ha := Transport.ask_script_err hs s.devAddr [0x01, hi8 w, lo8 w] 2
    have hlast := (step_sample_write (host := host) rfl ha).trans (exec_fw_failed rfl ha)
    exact ⟨_, (steps_sample 1 h).trans (steps_succ hlast), rfl, rfl, rfl, rfl, rfl, rfl⟩
  · obtain ⟨rx, hrun⟩ := steps_sample_polling (wrote := (d0, d1)) h rfl (Transport.ask_script_ok hs _ _ _) hbusy hcap
      (answersPolls_script _ rfl)
    have hlast := (step_polling (s := s) (ch := ch) (host := host) (wrote := (d0, d1)) (busy := busy) (rx := rx)
      (fails _)).trans (exec_fr_failed rfl (fails _))
    rw [show busy.length + 3 = 1 + busy.length + 2 by omega]
    exact ⟨_, (hrun 1).trans (steps_succ hlast), rfl, rfl, rfl, rfl, rfl, rfl⟩
  · have hrun := steps_sample_sampled (wrote := (d0, d1)) (ready := (r0, r1)) h rfl (Transport.ask_script_ok hs _ _ _)
      hbusy hcap (answersPolls_script _ rfl) hr (Transport.ask_script_ok rfl _ _ _) 1
    have hlast := (step_sampled (s := s) (ch := ch) (host := host) (wrote := (d0, d1)) (busy := busy)
      (ready := (r0, r1)) (fails _)).trans (exec_fr_failed rfl (fails _))
    rw [show busy.length + 4 = 1 + busy.length + 3 by omega, pollEvents_concat]
    exact ⟨_, hrun.trans (steps_succ hlast), rfl, rfl, rfl, rfl, rfl, rfl⟩

/-! ### Against the scripted device (R46, R101) -/

/-- With no script left the scripted device answers a transaction, and what it keeps is what the answer leaves. -/
theorem Transport.ask_scripted {t : Transport} {k b b' : Nat} {c cfg cfg' : Word} {ident : Byte} {addr : BitVec 7}
    {out : List Byte} {m : Nat} {a : Answer} (hs : t.script = []) (hf : t.fixture = .scripted k c ident cfg b)
    (ha : scriptedAnswer k c ident cfg b (.xfer addr out m) = some (a, cfg', b')) :
    ∃ u, t.ask (.xfer addr out m) = some (a, u) ∧ u.script = [] ∧ u.fixture = .scripted k c ident cfg' b' := by
  refine ⟨_, ?_, Transport.settle_script { t with script := [], fixture := .scripted k c ident cfg' b' } _ a,
    Transport.settle_fixture { t with script := [], fixture := .scripted k c ident cfg' b' } (.xfer addr out m) a⟩
  simp only [Transport.ask, hs, Transport.askFixture, hf, Fixture.answer, ha]

/-- A poll of the busy device: its configuration word with bit 15 clear. -/
def busyPoll (cfg : Word) : Byte × Byte := (hi8 (cfg &&& 0x7FFF), lo8 (cfg &&& 0x7FFF))

theorem allBusy_replicate (n : Nat) (cfg : Word) : allBusy (List.replicate n (busyPoll cfg)) := by
  intro b hb
  rw [List.eq_of_mem_replicate hb]
  simp [busyPoll, hi8]

/-- The busy device answers as many busy polls as it counts, and then it counts none. -/
theorem answersPolls_scripted (addr : BitVec 7) {k n : Nat} {c cfg : Word} {ident : Byte} {t : Transport}
    (hs : t.script = []) (hf : t.fixture = .scripted k c ident cfg n) :
    ∃ u, AnswersPolls addr (List.replicate n (busyPoll cfg)) t u ∧ u.script = [] ∧
      u.fixture = .scripted k c ident cfg 0 := by
  induction n generalizing t with
  | zero => exact ⟨t, rfl, hs, hf⟩
  | succ n ih =>
    obtain ⟨v, hask, hvs, hvf⟩ := Transport.ask_scripted (addr := addr) (out := [0x01]) (m := 2) hs hf rfl
    obtain ⟨u, hrest, hus, huf⟩ := ih hvs hvf
    exact ⟨u, ⟨v, hask, hrest⟩, hus, huf⟩

/-- A configuration word starts a conversion, for which the device is busy `k` polls. -/
theorem scriptedAnswer_start (k b : Nat) (c cfg : Word) (ident : Byte) (addr : BitVec 7) (p : Params) (ch : Channel)
    (g r : Code) {w : Word} (hw : w = cfgAssembleWord p ch g r) :
    scriptedAnswer k c ident cfg b (.xfer addr [0x01, hi8 w, lo8 w] 2) = some (.ok (hi8 w) (lo8 w), w, k) := by
  obtain ⟨hstart, -⟩ := cfgFieldsIndependent p ch g r
  simp only [scriptedAnswer, be16_hi8_lo8, if_true]
  rw [if_pos (by rw [hw]; exact hstart)]

theorem xferCount_pollEvents (addr : BitVec 7) (polls : List (Byte × Byte)) (older : List Event) :
    xferCount (pollEvents addr polls ++ older) = xferCount older + polls.length := by
  induction polls using List.reverseRecOn with
  | nil => rfl
  | append_singleton bs b ih =>
    rw [pollEvents_concat, List.length_append, List.cons_append, xferCount, ih]
    rfl

theorem responseCount_pollEvents (addr : BitVec 7) (polls : List (Byte × Byte)) (older : List Event) :
    responseCount (pollEvents addr polls ++ older) = responseCount older := by
  induction polls using List.reverseRecOn with
  | nil => rfl
  | append_singleton bs b ih =>
    rw [pollEvents_concat, List.cons_append, ← ih]
    rfl

/-- Settles O47: the device is busy for `k` polls after the write, and a bit set with OR ends the loop. -/
theorem scriptedDeviceSample : Obligations.ScriptedDeviceSample := by
  intro s ch host k c ident cfg b h hm hs hf
  obtain ⟨w, hw⟩ : ∃ w, w = cfgAssembleWord s.params ch s.gain s.rate := ⟨_, rfl⟩
  obtain ⟨u, hwrote, hus, huf⟩ := Transport.ask_scripted hs hf
    (scriptedAnswer_start k b c cfg ident s.devAddr s.params ch s.gain s.rate hw)
  obtain ⟨v, hpolls, hvs, hvf⟩ := answersPolls_scripted s.devAddr hus huf
  obtain ⟨x, hready, hxs, hxf⟩ := Transport.ask_scripted (addr := s.devAddr) (out := [0x01]) (m := 2) hvs hvf rfl
  obtain ⟨y, hread, -⟩ := Transport.ask_scripted (addr := s.devAddr) (out := [0x00]) (m := 2) hxs hxf rfl
  have hr : (hi8 (w ||| 0x8000)).getLsbD 7 = true := by simp [hi8]
  have hrun := steps_sample_ok (wrote := (hi8 w, lo8 w)) (ready := (hi8 (w ||| 0x8000), lo8 (w ||| 0x8000)))
    h hw hwrote (allBusy_replicate k w) (by simp [hm]) hpolls hr hready hread
  rw [List.length_replicate, be16_hi8_lo8] at hrun
  refine ⟨_, hrun, h.idle, ?_, rfl, ?_⟩
  · simp only [List.cons_append, xferCount, xferCount_pollEvents, writeEvent, List.length_append,
      List.length_replicate, List.length_singleton]
    omega
  · simp only [List.cons_append, responseCount, responseCount_pollEvents, writeEvent]

end Sys2Proof.Machine

/-!
PROOFS. 60_exceptions.md: raising an error (R118, R119), the errors of a poll (R114, R117), and that the bus is
configured before any transaction, over whole runs (R123).
-/

namespace Sys2Proof.Machine

/-! ### Raising an error (R118, R119) -/

/-- An initialization fault, by what it does to `LIFE`. -/
theorem raise_of_dead {s : State} {e : ErrorKind} (h : e.lifeAfter s.life = .dead) :
    s.raise e =
      { s with life := .dead, phase := .idle, trace := .response ⟨0, e.code, 0, e.payload⟩ :: s.trace } := by
  rw [State.raise, h, Response.failure]

/-- Any other error, which leaves `LIFE` alone. -/
theorem raise_of_kept {s : State} {e : ErrorKind} (h : e.lifeAfter s.life = s.life) :
    s.raise e = { s with phase := .idle, trace := .response ⟨0, e.code, 0, e.payload⟩ :: s.trace } := by
  rw [State.raise, h, Response.failure]

/-- Settles O41: the three initialization faults kill the block, the five other errors leave `LIFE` as it is. -/
theorem raisingAnError : Obligations.RaisingAnError := fun _ _ =>
  ⟨raise_of_dead rfl, raise_of_dead rfl, raise_of_dead rfl, raise_of_kept rfl, raise_of_kept rfl, raise_of_kept rfl,
    raise_of_kept rfl, raise_of_kept rfl⟩

/-! ### The errors of a poll (R114, R117) -/

/-- Settles O38: in `RS_POLL` the read frame of the configuration register is sent, and its error is raised before the
count of polls is looked at. -/
theorem pollFault : Obligations.PollFault := by
  intro s e t hp req ha
  have hi : issuesFr .config s.phase = true := by rw [hp]; rfl
  exact exec_fr_failed hi ha

/-- The busy poll that reaches the cap is recorded and counted as any other, and the error is raised. -/
theorem step_polling_limit {s : State} {ch : Channel} {host : List HostInput} {wrote : Byte × Byte}
    {busy : List (Byte × Byte)} {rx : RxBuf} {t t' : Transport} {b0 b1 : Byte} (hb : b0.getLsbD 7 = false)
    (hcap : s.params.maxPolls = some (busy.length + 1))
    (ha : t.ask (.xfer s.devAddr [0x01] 2) = some (.ok b0 b1, t')) :
    step (s.polling ch host wrote busy rx t) =
      .next ((s.polling ch host wrote (busy ++ [(b0, b1)]) ⟨b0, b1⟩ t').raise .pollLimit) := by
  have hpolls : (s.polling ch host wrote busy rx t).polls = busy.length := by simp [State.polling, hcap]
  obtain ⟨-, -, -, hlimit⟩ := pollResult (s.polling ch host wrote busy rx t) b0 b1 t' rfl ha
  rw [step_polling ha, hlimit _ hb hcap (by rw [hpolls]), raise_of_kept rfl]
  simp [State.polling, hcap, pollEvents_concat, ErrorKind.code, ErrorKind.payload]

/-- Settles O45: all polls but the last leave the count below the cap, and the last reaches it. -/
theorem readSinglePollLimit : Obligations.ReadSinglePollLimit := by
  intro s ch host busy more d0 d1 h hbusy hne hcap hs w
  obtain ⟨before, last, rfl⟩ := (List.eq_nil_or_concat' busy).resolve_left hne
  obtain ⟨hbefore, hlast⟩ := List.forall_mem_append.mp hbusy
  rw [List.length_append, List.length_singleton] at hcap ⊢
  have hreplies : pollReplies (before ++ [last]) ++ more = pollReplies before ++ .ok last.1 last.2 :: more := by
    simp [pollReplies]
  rw [List.cons_append, hreplies] at hs
  obtain ⟨rx, hrun⟩ := steps_sample_polling (wrote := (d0, d1)) h rfl (Transport.ask_script_ok hs _ _ _) hbefore
    (by simp [hcap]) (answersPolls_script _ rfl)
  have hlimit := step_polling_limit (s := s) (ch := ch) (host := host) (wrote := (d0, d1)) (rx := rx)
    (t := { s.transport with script := .ok last.1 last.2 :: more }) (hlast last (List.mem_singleton_self last)) hcap
    (Transport.ask_script_ok rfl _ _ _)
  rw [show before.length + 1 + 2 = 1 + before.length + 2 by omega]
  exact ⟨_, (hrun 1).trans (steps_succ hlimit), rfl, rfl, by simp [State.polling, hcap], rfl, rfl, rfl, rfl⟩

/-! ### Whole runs (R123) -/

/-- R131: a block just reset meets the invariant, whatever it was built with and whatever surrounds it. -/
theorem Inv.of_reset {p : Params} (hp : p.wf = true) (host : List HostInput) {tr : Transport}
    (htr : tr.fixture.wf = true) : Inv { State.reset with params := p, host := host, transport := tr } :=
  Steady.inv_idle ⟨hp, rfl, nofun, nofun, htr, rfl⟩ rfl fun _ => rfl

/-- A run answers a next state just when its first step does and the rest of it does. -/
theorem steps_succ_eq_next {s t : State} {n : Nat} :
    steps (n + 1) s = .next t ↔ ∃ u, step s = .next u ∧ steps n u = .next t := by
  rw [steps]
  cases step s <;> simp

/-- Every run keeps the invariant, since every step does. -/
theorem Inv.of_steps {s t : State} {n : Nat} (h : Inv s) (hrun : steps n s = .next t) : Inv t := by
  induction n generalizing s with
  | zero => exact Host.Outcome.next.inj hrun ▸ h
  | succ n ih =>
    obtain ⟨u, hstep, hrest⟩ := steps_succ_eq_next.mp hrun
    exact ih (stepKeepsInvariant s u h hstep) hrest

/-- The older part of a safe record is safe. -/
theorem safeTrace_of_append {newer older : List Event} (h : safeTrace (newer ++ older) = true) :
    safeTrace older = true := by
  induction newer with
  | nil => exact h
  | cons ev newer ih =>
    cases ev with
    | request req res => exact ih (Bool.and_eq_true_iff.mp h).2
    | response r => exact ih h
    | reset clk => exact ih h

/-- A transaction may be made only on a configured bus and to `DEV_ADDR` (R123, R11). -/
theorem configured_of_mayRequest_xfer {t : List Event} {addr : BitVec 7} {out : List Byte} {m : Nat}
    (h : mayRequest t (.xfer addr out m) = true) : setupLevel t = 3 ∧ addr = Config.devAddr := by
  simp only [mayRequest, Bool.and_eq_true, beq_iff_eq] at h
  exact h.1

/-- Settles O57: the invariant holds after every run from reset; it says that the bus is configured in the phases of a
transaction, and that every request of the record was one that might be made. -/
theorem noTransactionBeforeSetup : Obligations.NoTransactionBeforeSetup := by
  intro p host tr n t hp htr hrun
  have hinv := (Inv.of_reset hp host htr).of_steps hrun
  refine ⟨fun hx => ⟨hinv.steady.level_live (hinv.init_of_xfer hx), hinv.dev_addr⟩, ?_⟩
  intro newer addr out m res older htrace
  have hsafe : safeTrace (.request (.xfer addr out m) res :: older) = true :=
    safeTrace_of_append (htrace ▸ hinv.trace_safe)
  exact configured_of_mayRequest_xfer (Bool.and_eq_true_iff.mp hsafe).1

end Sys2Proof.Machine

/-!
PROOFS. 70_reset_and_hazards.md R145, R146: an operation gives its one response at the step that ends in `IDLE`.
-/

namespace Sys2Proof.Machine

/-- Coming from the record `old`, the state `t` holds one response more if it is in `IDLE`, and none more if not. -/
def Responds (old : List Event) (t : State) : Prop :=
  responseCount t.trace = responseCount old + if t.phase = .idle then 1 else 0

/-- The operation goes on. -/
theorem Responds.goesOn {old : List Event} {t : State} (hp : t.phase ≠ .idle)
    (ht : responseCount t.trace = responseCount old) : Responds old t := by
  rw [Responds, if_neg hp, ht, Nat.add_zero]

/-! ### What ends an operation, and what leads on -/

theorem finish_responds (s : State) (v : Word) : Responds s.trace (s.finish v) := rfl

theorem raise_responds (s : State) (e : ErrorKind) : Responds s.trace (s.raise e) := rfl

/-- An accepted operation responds at once, or is in the phase of its first request. -/
theorem ran_responds {i : Instr} (hc : i.isCommand = true) (s : State) : Responds s.trace (ran i s) := by
  cases i with
  | setGain | getGain | setDataRate | getDataRate | cfgAssemble => exact finish_responds _ _
  | initialise | readSingle | whoAmI | writeRegister | readRegister => exact .goesOn nofun rfl
  | fw | fr | fb | cw => cases hc

/-- Only the last of the three setters ends INITIALIZE. -/
theorem setterOf_responds (s u : State) : Responds u.trace ((setterOf s).2.2 u) := by
  unfold setterOf
  split
  · exact .goesOn nofun rfl
  · exact .goesOn nofun rfl
  · exact finish_responds _ _

/-- A poll ends READ_SINGLE at the cap only (R114). -/
theorem afterPoll_responds (w : Word) {s : State} (hp : s.phase ≠ .idle) : Responds s.trace (afterPoll w s) := by
  cases hb : statusBit w with
  | true =>
    rw [afterPoll_ready hb]
    exact .goesOn nofun rfl
  | false =>
    cases hm : s.params.maxPolls with
    | none =>
      rw [afterPoll_uncapped hb hm]
      exact .goesOn hp rfl
    | some n =>
      by_cases hn : s.polls + 1 = n
      · rw [afterPoll_limit hb hm hn]
        exact raise_responds { s with polls := s.polls + 1 } .pollLimit
      · rw [afterPoll_below hb hm hn]
        exact .goesOn hp rfl

/-- Of the transactions answered `Ok`, the configuration write and the polls do not end their operation. -/
theorem onBytes_responds (p : Phase) (b0 b1 : Byte) {s : State} (hp : s.phase ≠ .idle) :
    Responds s.trace (onBytes p b0 b1 s) := by
  cases p with
  | rsWrite =>
    rw [onBytes, startPolling_eq]
    exact .goesOn nofun rfl
  | rsPoll => exact afterPoll_responds _ hp
  | idle | initIdleTo | initPinLow | initClock | rsRead | waiRead | regWrite | regRead => exact finish_responds _ _

/-! ### The step, by where it begins -/

/-- A command word taken in `IDLE` is refused, or its operation accepted. -/
theorem step_responds_idle {s t : State} (hp : s.phase = .idle) (hh : ∃ w rest, s.host = .command w :: rest)
    (h : step s = .next t) : Responds s.trace t := by
  obtain ⟨w, rest, hh⟩ := hh
  obtain ⟨hnil, -⟩ | ⟨clk, rest', hreset, -⟩ | ⟨w', rest', -, ⟨e, -, rfl⟩ | ⟨i, -, hc, -, -, rfl⟩⟩ := idle_cases hp h
  · exact absurd (hh.symm.trans hnil) nofun
  · exact absurd (hh.symm.trans hreset) nofun
  · exact raise_responds { s with host := rest' } e
  · exact ran_responds hc { s with host := rest' }

/-- A setter's request waits, fails, or leads to the next. The request itself adds no response. -/
theorem step_responds_init {s t : State} (hi : s.phase.isInit = true)
    (hs : ∀ clk rest, s.transport.script ≠ .reset clk :: rest) (h : step s = .next t) : Responds s.trace t := by
  obtain ⟨-, rfl⟩ | ⟨e, tr, -, rfl⟩ | ⟨b0, b1, tr, -, rfl⟩ := init_cases hi hs h
  · exact .goesOn (Phase.not_idle_of_init hi) rfl
  · exact raise_responds (s.answered _ _ tr) _
  · exact setterOf_responds s (s.answered _ _ tr)

/-- A transaction that has not been answered leaves its operation running, and one that failed ends it. -/
theorem Transacts.responds {s t : State} {out : List Byte} {m : Nat} {tx : TxBuf} (hp : s.phase ≠ .idle)
    (h : Transacts s t out m tx) : Responds s.trace t := by
  obtain ⟨-, rfl⟩ | ⟨e, tr, -, rfl⟩ | ⟨b0, b1, tr, rx, -, rfl⟩ := h
  · exact .goesOn hp rfl
  · exact raise_responds (State.answered { s with txbuf := tx } _ _ tr) _
  · exact onBytes_responds s.phase b0 b1
      (s := { State.answered { s with txbuf := tx } (.xfer s.devAddr out m) (.ok b0 b1) tr with rxbuf := rx }) hp

/-- Settles O19: resets aside, a step takes a command word, makes a setter's request or makes a transaction. -/
theorem oneResponsePerOperation : Obligations.OneResponsePerOperation := by
  intro s t h hcommand hnoReset
  by_cases hp : s.phase = .idle
  · exact step_responds_idle hp (hcommand hp) h
  · obtain hi | hx := Phase.init_or_xfer hp
    · exact step_responds_init hi (hnoReset hp) h
    · obtain ⟨out, m, -, -, ht⟩ := xfer_cases hx (hnoReset hp) h
      exact ht.responds hp

end Sys2Proof.Machine

/-!
PROOFS. 70_reset_and_hazards.md R130 to R133, R137: READ_SINGLE without a cap, and what a reset leaves.
-/

namespace Sys2Proof.Machine

/-! ### No cap, no end (R137) -/

/-- Settles O46: without a cap the run as far as the last busy poll has no bound on the polls, and ends in `RS_POLL`. -/
theorem readSingleHangs : Obligations.ReadSingleHangs := by
  intro s ch host busy more d0 d1 h hbusy hm hs
  obtain ⟨rx, hrun⟩ := steps_sample_polling (wrote := (d0, d1)) h rfl (Transport.ask_script_ok hs _ _ _) hbusy
    (by simp [hm]) (answersPolls_script _ rfl)
  rw [show busy.length + 2 = 0 + busy.length + 2 by omega]
  refine ⟨_, hrun 0, rfl, ?_, ?_⟩
  · simp only [State.polling, responseCount_pollEvents, writeEvent, responseCount]
  · simp only [State.polling, xferCount_pollEvents, writeEvent, xferCount]
    omega

/-! ### The two resets -/

/-- A reset presented in `IDLE` is taken. -/
theorem step_reset {s : State} {clk : Option Nat} {rest : List HostInput} (hp : s.phase = .idle)
    (hh : s.host = .reset clk :: rest) : step s = .next ({ s with host := rest }.resetBlock clk) := by
  simp only [step, fetch, hp, if_true, fetchCommand, hh]

/-- Before INITIALIZE every other well-formed operation is refused with `NotInitialized` (R98). -/
theorem exec_uninit {i : Instr} {s : State} (hc : i.isCommand = true) (hp : s.phase = .idle) (hl : s.life = .uninit)
    (hi : i ≠ .initialise) (hw : WellFormed s.params i = true) :
    exec i s = .next { s with trace := .response ⟨0, 5, 0, none⟩ :: s.trace } := by
  rw [exec_guarded hc hp hw (hl ▸ lifeGuard_uninit hi), raise_early hp (.inr (.inl rfl))]
  rfl

/-- A transaction abandoned in flight leaves the settings of the transport alone (R133). -/
theorem Transport.abandon_xfer (t : Transport) {p : Phase} (hx : p.isXfer = true) (rest : List Reply) :
    t.abandon p rest = { t with script := rest, fixture := .absent } := by
  cases p with
  | rsWrite | rsPoll | rsRead | waiRead | regWrite | regRead => rfl
  | idle | initIdleTo | initPinLow | initClock => cases hx

/-- Settles O51: a reset leaves an `UNINIT` block in `IDLE`, which refuses both accessors. -/
theorem resetValues : Obligations.ResetValues := by
  refine ⟨⟨rfl, rfl, rfl, rfl⟩, fun s clk rest hp hh => ?_⟩
  exact ⟨_, step_reset hp hh, rfl, rfl, rfl, rfl, exec_uninit rfl rfl rfl nofun rfl, exec_uninit rfl rfl rfl nofun rfl⟩

/-- Settles O52. -/
theorem resetKeepsEnvironment : Obligations.ResetKeepsEnvironment := fun _ _ _ hp hh =>
  ⟨_, step_reset hp hh, rfl, rfl, rfl, rfl, rfl⟩

/-- Settles O53: outside `IDLE` the reset is of the block with its request given up. -/
theorem resetWhileBusy : Obligations.ResetWhileBusy := fun s _ rest hp hs =>
  ⟨_, step_abandon hp hs, rfl, rfl, rfl, rfl, rfl, rfl, Transport.abandon_script s.transport s.phase rest,
    Transport.abandon_fixture s.transport s.phase rest, fun hx => Transport.abandon_xfer s.transport hx rest⟩

/-- Settles O54. -/
theorem resetHasInvariant : Obligations.ResetHasInvariant := fun _ host _ hp htr => Inv.of_reset hp host htr

end Sys2Proof.Machine

/-!
PROOFS. 30_encoding.md section 1: words written out, decoded. 10_state.md section 3: each frame runs in its own phases
only.
-/

namespace Sys2Proof

/-! ### Words written out (R51 to R55) -/

/-- What encodes an instruction decodes to it, with the encoding given by its words. -/
theorem decode_of_encode_eq {p : Params} {i : Instr} {e : Encoded} (h : encode p i = e) : decode p e = .ok i :=
  h ▸ decodeOfEncode p i

/-- Settles O3: each word is its instruction's encoding, the last one under the default codes. -/
theorem knownWordsDecode : Obligations.KnownWordsDecode := by
  have command {w : Command} {i : Instr} (h : encode .default i = .command w) : decodeCommand w = .ok i :=
    decode_of_encode_eq h
  have frame {out : List Byte} {m : Nat} {i : Instr} (h : encode .default i = .frame out m) :
      decodeFrame out m = .ok i := decode_of_encode_eq h
  exact ⟨command rfl, command rfl, command rfl, command rfl, command rfl, command rfl, command rfl, command rfl,
    command rfl, command rfl, frame rfl, frame rfl, frame rfl, decode_of_encode_eq (e := .payload 0xC583) rfl⟩

end Sys2Proof

namespace Sys2Proof.Machine

/-! ### The phases that send a frame (R17) -/

theorem issuesFw_iff {reg : Reg} {p : Phase} :
    issuesFw reg p = true ↔ p = .regWrite ∨ p = .rsWrite ∧ reg = .config := by
  cases p <;> simp [issuesFw]

theorem issuesFr_iff {reg : Reg} {p : Phase} :
    issuesFr reg p = true ↔ p = .regRead ∨ p = .rsPoll ∧ reg = .config ∨ p = .rsRead ∧ reg = .conversion := by
  cases p <;> simp [issuesFr]

/-- A frame its phase does not send leaves the state as it is (log entry 9). -/
theorem whenIssued_of_not {issued : Bool} {s : State} {r : Host.Outcome State Fault Refusal} (h : ¬ issued = true) :
    whenIssued issued s r = .next s :=
  if_neg h

/-- Settles O40: all four frames are sent under the one condition that the phase issues them. -/
theorem frameOfAnotherPhase : Obligations.FrameOfAnotherPhase := by
  refine fun s => ⟨fun reg v hw hc => ?fw, fun reg hr hc hv => ?fr, fun hb => ?fb, fun hw m g r => ?cw⟩
  case fw => exact whenIssued_of_not fun hi => (issuesFw_iff.mp hi).elim hw hc
  case fr => exact whenIssued_of_not fun hi => (issuesFr_iff.mp hi).elim hr (·.elim hc hv)
  case fb => exact whenIssued_of_not (mt beq_iff_eq.mp hb)
  case cw => exact whenIssued_of_not (mt beq_iff_eq.mp hw)

end Sys2Proof.Machine
